-- ==== Sys2Proof/Word.lean ====
section
/-! DEFINITION. The word types of the frame engine: every value is an unsigned integer of a stated width
(spec/00_scope.md R8). -/

namespace Sys2Proof

/-- A frame byte, a gamma table entry, a channel, a dimming factor. -/
abbrev Byte := BitVec 8

/-- A hue word, 128 units a degree (R49). -/
abbrev HueWord := BitVec 16

/-- A command word or a wire record taken as one 32-bit value (R27, R38). -/
abbrev Word := BitVec 32

/-- The `idx` field of `SETHUE` (R34). -/
abbrev HueIndex := BitVec 12

end Sys2Proof
end

