-- ==== Sys2Proof/Config.lean ====
section
/-! DEFINITION. The constants and the parameters of the frame engine (spec/00_scope.md R6, R7), the named property
that ties the gamma tables to their exponents (spec/40_gamma_lut.md R44, R45), and the free hue values. -/

namespace Sys2Proof

/-- `SECT`: hue units of one 60 degree sector (R7). -/
def sect : Nat := 7680

/-- `TURN`: hue units of one full turn (R7). -/
def turn : Nat := 46080

/-- `KV = 255*7680` (R7). -/
def kv : Nat := 1958400

/-- `DEN = 255*255*7680`, the denominator of a channel numerator (R7, R51). -/
def den : Nat := 499392000

/-- A gamma table: 256 entries of 8 bits (R20). -/
abbrev Table := Vector Byte 256

/-- The parameters of one unit, fixed when it is built (R6). DESIGN CHOICE: the state carries them (log entry 1).
`sclkHalf` is a positive duration in units the model never interprets; no rule depends on it (R72; log entry 15). -/
structure Config where
  /-- `N`, the number of LEDs, 0 to 4096. -/
  n : Fin 4097
  /-- `SAT`, the saturation code of every LED. -/
  sat : Byte
  /-- `VAL`, the value code of every LED. -/
  val : Byte
  /-- `SWAP_GB = 1`: the green table is built from the blue exponent and the blue table from the green one. -/
  swapGb : Bool
  /-- `GLUT_R`. -/
  glutR : Table
  /-- `GLUT_G`. -/
  glutG : Table
  /-- `GLUT_B`. -/
  glutB : Table
  /-- `SCLK_HALF`, a positive duration. -/
  sclkHalf : PNat
  deriving DecidableEq, Repr

/-- `FRAME_BYTES = 4*(N+3)` (R7). -/
def Config.frameBytes (c : Config) : Nat := 4 * (c.n.val + 3)

/-- `FRAME_BITS = 32*(N+3)` (R7). -/
def Config.frameBits (c : Config) : Nat := 32 * (c.n.val + 3)

/-- `y = gam(g, i)`: the real-number rule of one table entry, rounded to the nearest integer with ties upwards and
clamped (R44). -/
def GammaEntry (g : ℝ) (i y : Nat) : Prop :=
  (y : ℤ) = min 255 (max 0 ⌊255 * ((i : ℝ) / 255) ^ g + 1 / 2⌋)

/-- Every entry of `t` is `gam(g, i)` (R44, R45). -/
def GammaTable (g : ℝ) (t : Table) : Prop :=
  ∀ i : Fin 256, GammaEntry g i.val t[i].toNat

/-- R45 as a property of the three tables: what `GLUT.BUILD` leaves for the exponents `gR`, `gG`, `gB`. -/
def Config.BuiltFrom (c : Config) (gR gG gB : ℝ) : Prop :=
  GammaTable gR c.glutR ∧
  (if c.swapGb then GammaTable gB c.glutG ∧ GammaTable gG c.glutB
   else GammaTable gG c.glutG ∧ GammaTable gB c.glutB)

/-- A legal unit: its tables are those of some positive exponents (R6, R45). -/
def Config.Built (c : Config) : Prop :=
  ∃ gR gG gB : ℝ, 0 < gR ∧ 0 < gG ∧ 0 < gB ∧ c.BuiltFrom gR gG gB

/-- The hue words after a reset event: unspecified (R89, U11), so a constant without a body, applied to the number
of the reset event and the index of the register (log entry 4). -/
opaque freeHue : Nat → Nat → HueWord

/-- The rows of the table for exponent 2.2 (spec/95_test_vectors.md section 2.1). -/
def gamma22Rows : List Byte :=
  [0, 0, 0, 0, 0, 0, 0, 0, 0, 0, 0, 0, 0, 0, 0, 1] ++
  [1, 1, 1, 1, 1, 1, 1, 1, 1, 2, 2, 2, 2, 2, 2, 2] ++
  [3, 3, 3, 3, 3, 4, 4, 4, 4, 5, 5, 5, 5, 6, 6, 6] ++
  [6, 7, 7, 7, 8, 8, 8, 9, 9, 9, 10, 10, 11, 11, 11, 12] ++
  [12, 13, 13, 13, 14, 14, 15, 15, 16, 16, 17, 17, 18, 18, 19, 19] ++
  [20, 20, 21, 22, 22, 23, 23, 24, 25, 25, 26, 26, 27, 28, 28, 29] ++
  [30, 30, 31, 32, 33, 33, 34, 35, 35, 36, 37, 38, 39, 39, 40, 41] ++
  [42, 43, 43, 44, 45, 46, 47, 48, 49, 49, 50, 51, 52, 53, 54, 55] ++
  [56, 57, 58, 59, 60, 61, 62, 63, 64, 65, 66, 67, 68, 69, 70, 71] ++
  [73, 74, 75, 76, 77, 78, 79, 81, 82, 83, 84, 85, 87, 88, 89, 90] ++
  [91, 93, 94, 95, 97, 98, 99, 100, 102, 103, 105, 106, 107, 109, 110, 111] ++
  [113, 114, 116, 117, 119, 120, 121, 123, 124, 126, 127, 129, 130, 132, 133, 135] ++
  [137, 138, 140, 141, 143, 145, 146, 148, 149, 151, 153, 154, 156, 158, 159, 161] ++
  [163, 165, 166, 168, 170, 172, 173, 175, 177, 179, 181, 182, 184, 186, 188, 190] ++
  [192, 194, 196, 197, 199, 201, 203, 205, 207, 209, 211, 213, 215, 217, 219, 221] ++
  [223, 225, 227, 229, 231, 234, 236, 238, 240, 242, 244, 246, 248, 251, 253, 255]

/-- The gamma table for exponent 2.2. -/
def gamma22 : Table := ⟨gamma22Rows.toArray, by decide +kernel⟩

/-- The source's only scenario: 76 LEDs, every exponent 2.2, full saturation and value, the swap as the source has
it. DESIGN CHOICE: `State.reset` has this configuration (log entry 2). -/
def Config.scenario : Config where
  n := ⟨76, by decide⟩
  sat := 255
  val := 255
  swapGb := true
  glutR := gamma22
  glutG := gamma22
  glutB := gamma22
  sclkHalf := 1

end Sys2Proof
end

