-- ==== Sys2Proof/Syntax.lean ====
section
/-! DEFINITION. The instructions: one constructor per row of spec/opcode_table.json. -/

namespace Sys2Proof

/-- The two spaces of the opcode table: words the host puts on the command port, and words the engine puts on
the wire. -/
inductive Space where
  | command
  | wire
  deriving DecidableEq, Repr

/-- The five commands (R35) and the two wire records (R38, R39). -/
inductive Instr where
  /-- `NOP` (R74). -/
  | nop
  /-- `SETHUE idx, hue` (R75). -/
  | sethue (idx : HueIndex) (hue : HueWord)
  /-- `START dim` (R76). -/
  | start (dim : Byte)
  /-- `STATUS` (R77). -/
  | status
  /-- `CLRERR` (R78). -/
  | clrerr
  /-- `ZEROREC`, the all-zero record of the frame's padding (R39). -/
  | zerorec
  /-- `PIXREC`, a pixel record: the three two-bit fields of the flag byte and the three corrected channels (R38). -/
  | pixrec (b g r : BitVec 2) (blue green red : Byte)
  deriving DecidableEq, Repr

/-- The space an instruction belongs to (the column `space` of the opcode table). -/
def Instr.space : Instr → Space
  | .nop => .command
  | .sethue _ _ => .command
  | .start _ => .command
  | .status => .command
  | .clrerr => .command
  | .zerorec => .wire
  | .pixrec _ _ _ _ _ _ => .wire

end Sys2Proof
end

