-- ==== Sys2Proof/Machine/State.lean ====
section
/-! DEFINITION. The state of the frame engine: the ten elements of spec/10_state.md R14, the unit's configuration
(R6), and the model's bookkeeping (spec/00_scope.md R12). -/

namespace Sys2Proof.Machine

/-- `CAUSE`, a 2-bit code; its four values are the four constructors in the order of their codes (R18, R80). -/
inductive Cause where
  | none
  | illegal
  | busy
  | range
  deriving DecidableEq, Repr

/-- `resp` (R37). -/
inductive Resp where
  | ok
  | refused
  deriving DecidableEq, Repr

/-- The answer to one command (R37). -/
structure Response where
  resp : Resp
  rdata : Word
  deriving DecidableEq, Repr

/-- One step of an agent (R11). The order in which events stand in a list is the total order of R31. -/
inductive Event where
  /-- The host presents a command word on the port. -/
  | command (w : Word)
  /-- The engine is scheduled for one clock edge, which it takes if one is enabled. -/
  | edge
  /-- The reset input is asserted. -/
  | reset
  /-- The engine is scheduled for one whole wire record, which the schedule says is `w` (log entry 8). -/
  | record (w : Word)
  deriving DecidableEq, Repr

/-- The whole state. -/
structure State where
  /-- The unit's parameters: configuration, which no step writes (R6, R20; log entry 1). -/
  cfg : Config
  /-- `HUE[0..N-1]` (R15). -/
  hue : List HueWord
  /-- `DLAT` (R19). -/
  dlat : Byte
  /-- `BUSY` (R17). -/
  busy : Bool
  /-- `ERR` (R17). -/
  err : Bool
  /-- `CAUSE` (R18). -/
  cause : Cause
  /-- `BYTEIDX` (R16; 15 bits, C13). -/
  byteIdx : BitVec 15
  /-- `BITCNT` (R16). -/
  bitCnt : BitVec 3
  /-- `SHREG` (R68). -/
  shreg : Byte
  /-- `SCLK` (R23). -/
  sclk : Bool
  /-- `MOSI` (R23). -/
  mosi : Bool
  /-- Bookkeeping: the sample trace since reset, oldest first (R12). -/
  trace : List Bool
  /-- Bookkeeping: the samples taken before the last reset (U2; log entry 7). -/
  earlier : List Bool
  /-- Bookkeeping: the responses given, oldest first (R12, R37; log entry 6). -/
  responses : List Response
  /-- Bookkeeping: the mark of each hue register, set when an accepted `SETHUE` has written it since reset (U1). -/
  written : List Bool
  /-- Bookkeeping: an accepted `START` found a clear mark (U1; log entry 11). -/
  blindStart : Bool
  /-- The events to come (log entry 5). -/
  agenda : List Event
  /-- How many reset events there have been: the counter that picks the free hue words (log entry 4). -/
  resets : Nat
  deriving DecidableEq, Repr

/-- Why the machine stops. The block itself never does (R80 to R84). -/
inductive Fault where
  /-- Raised by `ZEROREC` and `PIXREC` where the engine does not stand before that very record: the schedule claims a
  record that the block does not send there (R40, R67). Safe: it only stops runs that the block does not have. -/
  | recordNotDue
  deriving DecidableEq, Repr

/-- Why the model gives no meaning. -/
inductive Refusal where
  /-- Raised by an arm of `exec` that has no meaning yet; there is none. Safe. -/
  | notModelled (mnemonic : String)
  /-- Raised by `step` for a scheduled wire word that is neither a zero record nor a pixel record, which the block never
  emits (R40, U12). Safe: it only stops runs that the block does not have. -/
  | notARecord
  deriving DecidableEq, Repr

/-- The state after power-on of a unit with configuration `c` whose hue registers happen to hold `hues`: every
other element as R89 says, every mark clear (U1). -/
def State.powerOn (c : Config) (hues : List HueWord) : State where
  cfg := c
  hue := hues
  dlat := 0
  busy := false
  err := false
  cause := .none
  byteIdx := 0
  bitCnt := 0
  shreg := 0
  sclk := false
  mosi := false
  trace := []
  earlier := []
  responses := []
  written := List.replicate c.n.val false
  blindStart := false
  agenda := []
  resets := 0

/-- The machine right after reset (R89). DESIGN CHOICE: the configuration is the source's scenario (log entry 2) and
every hue register holds 0 (log entry 3); the spec gives neither. -/
def State.reset : State :=
  State.powerOn Config.scenario (List.replicate Config.scenario.n.val 0)

end Sys2Proof.Machine
end

