-- ==== Sys2Proof/Machine/Flags.lean ====
section
/-! DEFINITION. The flags and the `STATUS` view (spec/10_state.md R17, R18). There are no arithmetic condition
codes (R17). -/

namespace Sys2Proof.Machine

/-- The code of a cause (R18, R80). -/
def causeCode : Cause → BitVec 2
  | .none => 0
  | .illegal => 1
  | .busy => 2
  | .range => 3

/-- `STATUS = zext_32({CAUSE, ERR, BUSY})` (R18). -/
def statusView (s : State) : Word :=
  0#28 ++ causeCode s.cause ++ BitVec.ofBool s.err ++ BitVec.ofBool s.busy

/-- `POS = 8*BYTEIDX + BITCNT`, the position in the frame in bits (R16). -/
def pos (s : State) : Nat := 8 * s.byteIdx.toNat + s.bitCnt.toNat

end Sys2Proof.Machine
end

