-- ==== Sys2Proof/WellFormed.lean ====
section
/-! DEFINITION. Which instructions are well formed. The widths of the operands are in their types; what is left
to check is that the flag of a pixel record belongs to its channels (spec/30_encoding.md R38). -/

namespace Sys2Proof

/-- The two most significant bits of a byte, the source's `top2` (spec/00_scope.md R13). -/
def top2 (x : Byte) : BitVec 2 := x.extractLsb' 6 2

/-- A pixel record carries in each two-bit field the complement of its channel's top two bits (R38). Every
operand of a command is legal: whether `idx` is in range is decided at execution (R35). -/
def Instr.wellFormed : Instr → Bool
  | .nop => true
  | .sethue _ _ => true
  | .start _ => true
  | .status => true
  | .clrerr => true
  | .zerorec => true
  | .pixrec b g r blue green red =>
      b == ~~~(top2 blue) && g == ~~~(top2 green) && r == ~~~(top2 red)

end Sys2Proof
end

