-- ==== Sys2Proof/Decode.lean ====
section
/-! DEFINITION. Decoding of command words (spec/30_encoding.md R34 to R36) and of wire records (R38 to R40), and the
encoder written from the same tables. -/

namespace Sys2Proof

/-- Why a word is not an instruction of its space. -/
inductive DecodeReject where
  /-- A command word whose `op` is `0x5` to `0xF` (R36). -/
  | reservedOp
  /-- A command word of format Z or D with a bit set that must be 0 (R34, R36). -/
  | mustBeZero
  /-- A wire word whose two leading bits are not set and which is not all zero (R40). -/
  | notARecord
  /-- A wire word with its two leading bits set whose flag does not belong to its channels (R38). -/
  | flagMismatch
  deriving DecidableEq, Repr

/-- `w[31:28]`, the operation code of a command word (R34). -/
def opOf (w : Word) : BitVec 4 := w.extractLsb' 28 4

/-- `w[27:16]` of format H (R34). -/
def idxOf (w : Word) : HueIndex := w.extractLsb' 16 12

/-- `w[15:0]` of format H (R34). -/
def hueOf (w : Word) : HueWord := w.extractLsb' 0 16

/-- `w[7:0]` of format D (R34). -/
def dimOf (w : Word) : Byte := w.extractLsb' 0 8

/-- Decoding of a command word (R35): total, every other word is illegal (R36). -/
def decodeCommand (w : Word) : Except DecodeReject Instr :=
  match (opOf w).toNat with
  | 0 => if w.extractLsb' 0 28 = 0 then .ok .nop else .error .mustBeZero
  | 1 => .ok (.sethue (idxOf w) (hueOf w))
  | 2 => if w.extractLsb' 8 20 = 0 then .ok (.start (dimOf w)) else .error .mustBeZero
  | 3 => if w.extractLsb' 0 28 = 0 then .ok .status else .error .mustBeZero
  | 4 => if w.extractLsb' 0 28 = 0 then .ok .clrerr else .error .mustBeZero
  | _ => .error .reservedOp

/-- The fields of a wire word in sending order, first bit sent in bit 31 (R38). -/
def pixrecFields (w : Word) : Instr :=
  .pixrec (w.extractLsb' 28 2) (w.extractLsb' 26 2) (w.extractLsb' 24 2)
    (w.extractLsb' 16 8) (w.extractLsb' 8 8) (w.extractLsb' 0 8)

/-- Classification of a 32-bit wire word (R38 to R40): the zero record, a pixel record, or neither. -/
def decodeRecord (w : Word) : Except DecodeReject Instr :=
  if w = 0 then .ok .zerorec
  else if w.extractLsb' 30 2 = 3 then
    if (pixrecFields w).wellFormed then .ok (pixrecFields w) else .error .flagMismatch
  else .error .notARecord

/-- The decoder of a space. -/
def decodeIn (sp : Space) (w : Word) : Except DecodeReject Instr :=
  match sp with
  | .command => decodeCommand w
  | .wire => decodeRecord w

/-- Four bytes as one 32-bit word, the first byte sent in bits 31 to 24 (R26, R38). -/
def wordOfBytes (b0 b1 b2 b3 : Byte) : Word :=
  BitVec.ofNat 32 (b0.toNat * 2 ^ 24 + b1.toNat * 2 ^ 16 + b2.toNat * 2 ^ 8 + b3.toNat)

/-- The word of an instruction (R34, R35, R38, R39). -/
def encode : Instr → Word
  | .nop => BitVec.ofNat 32 0x00000000
  | .sethue idx hue => BitVec.ofNat 32 (0x10000000 + idx.toNat * 65536 + hue.toNat)
  | .start dim => BitVec.ofNat 32 (0x20000000 + dim.toNat)
  | .status => BitVec.ofNat 32 0x30000000
  | .clrerr => BitVec.ofNat 32 0x40000000
  | .zerorec => wordOfBytes 0 0 0 0
  | .pixrec b g r blue green red =>
      wordOfBytes (BitVec.ofNat 8 (0xC0 + b.toNat * 16 + g.toNat * 4 + r.toNat)) blue green red

/-- The instruction the decoder reads from a word of the opcode table: as a command where it is one, else as a wire
record. The spaces share only the word 0, which is `NOP` on the command port and the zero record on the wire;
DESIGN CHOICE: it is read as `NOP` here (log entry 9). -/
def decodeTableWord (nbits w : Nat) : Option Instr :=
  if nbits ≤ 32 ∧ w < 2 ^ nbits then
    match decodeCommand (BitVec.ofNat 32 w) with
    | .ok i => some i
    | .error _ =>
      match decodeRecord (BitVec.ofNat 32 w) with
      | .ok i => some i
      | .error _ => none
  else none

end Sys2Proof
end

