-- ==== Sys2Proof/Machine/Operands.lean ====
section
/-! DEFINITION. The operands: hue registers, gamma table entries and wire words (spec/20_memory.md R24 to R29). -/

namespace Sys2Proof.Machine

/-- Whether `idx` names a hue register; the only access check of the block (R30). -/
def hueInRange (c : Config) (idx : HueIndex) : Bool := idx.toNat < c.n.val

/-- `HUE[i]` of a hue file. DESIGN CHOICE: 0 outside the file, where no rule reads (R24; log entry 14). -/
def hueAt (hues : List HueWord) (i : Nat) : HueWord := hues.getD i 0

/-- `HUE[idx] <- v`, with the mark of the register (R9, R75, U1). -/
def writeHue (idx : HueIndex) (v : HueWord) (s : State) : State :=
  { s with hue := s.hue.set idx.toNat v, written := s.written.set idx.toNat true }

/-- Every hue register has been written since reset (R90, U1). -/
def allWritten (s : State) : Bool := s.written.all id

/-- The eight bits of a byte in sending order, most significant bit first (R26). -/
def byteBits (b : Byte) : List Bool :=
  [b.getLsbD 7, b.getLsbD 6, b.getLsbD 5, b.getLsbD 4, b.getLsbD 3, b.getLsbD 2, b.getLsbD 1, b.getLsbD 0]

/-- The bits of a list of bytes in sending order (R25, R26). -/
def bytesBits (bs : List Byte) : List Bool := bs.flatMap byteBits

/-- The four bytes of a wire word in sending order (R26, R38). -/
def wordBytes (w : Word) : List Byte :=
  [w.extractLsb' 24 8, w.extractLsb' 16 8, w.extractLsb' 8 8, w.extractLsb' 0 8]

end Sys2Proof.Machine
end

