-- ==== Sys2Proof/Machine/Gamma.lean ====
section
/-! DEFINITION. Sub-block 1, `gamma_lut_array` (spec/40_gamma_lut.md). -/

namespace Sys2Proof.Machine

/-- The three colour channels (R46). -/
inductive Channel where
  | red
  | green
  | blue
  deriving DecidableEq, Repr

/-- `gam(p/q, i)` for a rational exponent, computed without reals: how many `k` of 1 to 255 have
`(2k-1)/510 <= (i/255)^(p/q)`, that is, `k - 1/2 <= 255*(i/255)^(p/q)` (R44: nearest integer, ties upwards). -/
def gammaEntry (p q i : Nat) : Byte :=
  BitVec.ofNat 8 (((List.range 255).filter fun j => (2 * j + 1) ^ q * 255 ^ p ≤ i ^ p * 510 ^ q).length)

/-- The table of the exponent `p/q` (R45). -/
def gammaTable (p q : Nat) : Table := Vector.ofFn fun i => gammaEntry p q i.val

/-- A positive rational exponent. -/
structure Exponent where
  num : Nat
  den : Nat
  deriving DecidableEq, Repr

/-- `GLUT.BUILD` for rational exponents (R45): the green and blue exponents change places when `SWAP_GB = 1`. -/
def glutBuild (c : Config) (gR gG gB : Exponent) : Config :=
  { c with
    glutR := gammaTable gR.num gR.den
    glutG := if c.swapGb then gammaTable gB.num gB.den else gammaTable gG.num gG.den
    glutB := if c.swapGb then gammaTable gG.num gG.den else gammaTable gB.num gB.den }

/-- `GLUT.RD c, i` (R46); each channel has its own table (R48). -/
def glutRd (c : Config) (ch : Channel) (i : Byte) : Byte :=
  match ch with
  | .red => c.glutR[i.toNat]'i.isLt
  | .green => c.glutG[i.toNat]'i.isLt
  | .blue => c.glutB[i.toNat]'i.isLt

end Sys2Proof.Machine
end

