-- ==== Sys2Proof/Machine/Colour.lean ====
section
/-! DEFINITION. Sub-block 2, `hsv_to_rgb_fixed_point` (spec/41_hsv_to_rgb.md). All arithmetic is on natural numbers and
none wraps (R55). -/

namespace Sys2Proof.Machine

/-- One value for each colour channel. -/
structure Rgb (α : Type) where
  r : α
  g : α
  b : α
  deriving DecidableEq, Repr

/-- The sector of a hue word, 0 to 5 (R52). -/
def sectorOf (h : HueWord) : Nat := h.toNat / sect % 6

/-- The place of a hue word in its sector, 0 to 7679 (R52). -/
def remOf (h : HueWord) : Nat := h.toNat % sect

/-- `HSV2RGB H, S, V`: three channel numerators over `DEN` (R52). -/
def hsv2rgb (h : HueWord) (sa va : Byte) : Rgb Nat :=
  let s := sa.toNat
  let v := va.toNat
  let rem := remOf h
  let cv := v * kv
  if s = 0 then ⟨cv, cv, cv⟩
  else
    let cp := v * (255 - s) * sect
    let cq := v * (kv - s * rem)
    let ct := v * (kv - s * (sect - rem))
    match sectorOf h with
    | 0 => ⟨cv, ct, cp⟩
    | 1 => ⟨cq, cv, cp⟩
    | 2 => ⟨cp, cv, ct⟩
    | 3 => ⟨cp, cq, cv⟩
    | 4 => ⟨ct, cp, cv⟩
    | _ => ⟨cv, cp, cq⟩

/-- `SCALE8 C, D = (C * D) div DEN` (R56). -/
def scale8 (c : Nat) (d : Byte) : Byte := BitVec.ofNat 8 (c * d.toNat / den)

/-- The raw colour of an LED with hue word `h` at dimming factor `d` (R57). -/
def rawColour (c : Config) (h : HueWord) (d : Byte) : Rgb Byte :=
  let x := hsv2rgb h c.sat c.val
  ⟨scale8 x.r d, scale8 x.g d, scale8 x.b d⟩

end Sys2Proof.Machine
end

