-- ==== Sys2Proof/Machine/Pixel.lean ====
section
/-! DEFINITION. Sub-block 3, `p9813_pixel_encoder` (spec/42_pixel_encoder.md). -/

namespace Sys2Proof.Machine

/-- A pixel record, its bytes in sending order (R38). -/
structure Pixel where
  flag : Byte
  blue : Byte
  green : Byte
  red : Byte
  deriving DecidableEq, Repr

/-- The packed top two bits of the corrected channels, 0 to 63 (R59). -/
def packTop2 (r g b : Byte) : Byte :=
  (r >>> 6 &&& 3) ||| (g >>> 6 &&& 3) <<< 2 ||| (b >>> 6 &&& 3) <<< 4

/-- `PIXENC r8, g8, b8`: gamma lookup, then the record with its flag (R58, R59). -/
def pixenc (c : Config) (raw : Rgb Byte) : Pixel :=
  let r := glutRd c .red raw.r
  let g := glutRd c .green raw.g
  let b := glutRd c .blue raw.b
  ⟨~~~(packTop2 r g b), b, g, r⟩

/-- The bytes `P[0..3]` of a record (R59). -/
def Pixel.bytes (p : Pixel) : List Byte := [p.flag, p.blue, p.green, p.red]

/-- A record as one 32-bit word, first bit sent in bit 31 (R26). -/
def Pixel.word (p : Pixel) : Word := wordOfBytes p.flag p.blue p.green p.red

end Sys2Proof.Machine
end

