-- ==== Sys2Proof/Machine/Frame.lean ====
section
/-! DEFINITION. Sub-block 4, `serial_frame_assembler` (spec/43_frame_assembler.md). The frame is a pure function of the
hue file, the dimming factor and the configuration (R65); it is never stored (R21). -/

namespace Sys2Proof.Machine

/-- `PIXEL(i)` (R63). -/
def pixelOf (c : Config) (hues : List HueWord) (d : Byte) (i : Nat) : Pixel :=
  pixenc c (rawColour c (hueAt hues i) d)

/-- Byte `j` of a record: 0 flag, 1 blue, 2 green, 3 red (R64). -/
def Pixel.byte (p : Pixel) : Nat → Byte
  | 0 => p.flag
  | 1 => p.blue
  | 2 => p.green
  | _ => p.red

/-- `FrameByte(k)` (R64). DESIGN CHOICE: 0 for an index past the frame, where no rule reads (R24; log entry 14). -/
def frameByte (c : Config) (hues : List HueWord) (d : Byte) (k : Nat) : Byte :=
  if k < 4 then 0
  else if k < 4 * c.n.val + 4 then (pixelOf c hues d ((k - 4) / 4)).byte ((k - 4) % 4)
  else 0

/-- The frame: its bytes in sending order (R65). -/
def frameOf (c : Config) (hues : List HueWord) (d : Byte) : List Byte :=
  (List.range c.frameBytes).map (frameByte c hues d)

/-- `FrameByte(k)` of a state. -/
def State.frameByte (s : State) (k : Nat) : Byte := Machine.frameByte s.cfg s.hue s.dlat k

/-- The frame of a state. -/
def State.frame (s : State) : List Byte := frameOf s.cfg s.hue s.dlat

end Sys2Proof.Machine
end

