-- ==== Sys2Proof/Machine/Ops.lean ====
section
/-! DEFINITION. The named operations on the state: responses, error entry and its counterpart, loading the
serializer, sampling, reset. -/

namespace Sys2Proof.Machine

/-- `respond(r, d)` (R37): the pair the host gets, appended to the responses. -/
def respond (r : Resp) (d : Word) (s : State) : State :=
  { s with responses := s.responses ++ [⟨r, d⟩] }

/-- Error entry, `raise Err(c)` (R84): the first cause since the last `CLRERR` is kept, the answer is
`(REFUSED, 0)`, and nothing else changes. -/
def raiseErr (c : Cause) (s : State) : State :=
  respond .refused 0 { s with cause := if s.err then s.cause else c, err := true }

/-- The counterpart of the error entry (R85): `ERR <- 0; CAUSE <- 0`. -/
def clearErr (s : State) : State := { s with err := false, cause := .none }

/-- `SER.LOAD b` (R68). -/
def serLoad (b : Byte) (s : State) : State :=
  { s with shreg := b, bitCnt := 0, mosi := b.getLsbD 7 }

/-- `emit(b)` (R9, R12). -/
def emit (b : Bool) (s : State) : State := { s with trace := s.trace ++ [b] }

/-- The accepted `START dim` up to its response (R76): the frame is determined here, from `HUE` as it is and the
new `DLAT`. The last field is the record of U1. -/
def beginFrame (dim : Byte) (s : State) : State :=
  let s1 : State :=
    { s with dlat := dim, busy := true, byteIdx := 0, blindStart := s.blindStart || !allWritten s }
  serLoad (s1.frameByte 0) s1

/-- The reset event (R89): every element at its reset value; the hue words are free (U11, log entry 4); the trace starts
again and what the strip saw before stays in `earlier` (log entry 7); what the host was told, the record of U1 and
the events to come are not the block's. -/
def resetEvent (s : State) : State :=
  { State.powerOn s.cfg ((List.range s.cfg.n.val).map (freeHue s.resets)) with
    earlier := s.earlier ++ s.trace
    responses := s.responses
    blindStart := s.blindStart
    agenda := s.agenda
    resets := s.resets + 1 }

end Sys2Proof.Machine
end

