-- ==== Sys2Proof/Machine/Serializer.lean ====
section
/-! DEFINITION. Sub-block 5, `spi_bit_serializer` (spec/44_serializer.md): the steps of the engine. -/

namespace Sys2Proof.Machine

/-- `RISE` (R69). -/
def rise (s : State) : State := emit s.mosi { s with sclk := true }

/-- `FALL`, first case: more bits in this byte (R70). -/
def fallBit (s : State) : State :=
  { s with sclk := false, shreg := s.shreg <<< 1, bitCnt := s.bitCnt + 1, mosi := s.shreg.getLsbD 6 }

/-- `FALL`, second case: the byte is done and another follows (R70). -/
def fallByte (s : State) : State :=
  serLoad (s.frameByte (s.byteIdx.toNat + 1)) { s with sclk := false, byteIdx := s.byteIdx + 1 }

/-- `FALL`, third case: the last bit of the last byte (R70). -/
def fallLast (s : State) : State :=
  { s with sclk := false, busy := false, byteIdx := 0, bitCnt := 0, shreg := 0, mosi := false }

/-- `FALL` (R70). -/
def fall (s : State) : State :=
  if s.bitCnt.toNat < 7 then fallBit s
  else if s.byteIdx.toNat < s.cfg.frameBytes - 1 then fallByte s
  else fallLast s

/-- One clock edge: `RISE` or `FALL`, whichever is enabled; while `BUSY = 0` the engine has no step (R11, R67, R69,
R70; log entry 18). -/
def engineEdge (s : State) : State :=
  if s.busy then
    if s.sclk then fall s else rise s
  else s

/-- `m` clock edges. -/
def engineRun : Nat → State → State
  | 0, s => s
  | m + 1, s => engineRun m (engineEdge s)

end Sys2Proof.Machine
end

