-- ==== Sys2Proof/Machine/Commands.lean ====
section
/-! DEFINITION. The five host commands (spec/45_host_commands.md). A refused command is an ordinary next state with the
error entry taken (R84). -/

namespace Sys2Proof.Machine

/-- `NOP` (R74). -/
def execNop (s : State) : Host.Outcome State Fault Refusal := .next (respond .ok 0 s)

/-- `SETHUE idx, hue` (R75), the busy check before the range check (R83). -/
def execSethue (idx : HueIndex) (hue : HueWord) (s : State) : Host.Outcome State Fault Refusal :=
  if s.busy then .next (raiseErr .busy s)
  else if hueInRange s.cfg idx then .next (respond .ok 0 (writeHue idx hue s))
  else .next (raiseErr .range s)

/-- `START dim` (R76). -/
def execStart (dim : Byte) (s : State) : Host.Outcome State Fault Refusal :=
  if s.busy then .next (raiseErr .busy s)
  else .next (respond .ok 0 (beginFrame dim s))

/-- `STATUS` (R77). -/
def execStatus (s : State) : Host.Outcome State Fault Refusal := .next (respond .ok (statusView s) s)

/-- `CLRERR` (R78). -/
def execClrerr (s : State) : Host.Outcome State Fault Refusal := .next (respond .ok 0 (clearErr s))

end Sys2Proof.Machine
end

