-- ==== Sys2Proof/Machine/Records.lean ====
section
/-! DEFINITION. The two wire records (spec/30_encoding.md R38 to R40). They are no commands: the engine emits them, each
in 64 clock edges (spec/44_serializer.md R71), and only where the frame has them. DESIGN CHOICE: the meaning of a
record is that emission (log entry 8). -/

namespace Sys2Proof.Machine

/-- The record the engine is about to send: the next 32 bits of the frame, if the engine stands before the first edge
of a record. -/
def dueRecord (s : State) : Option Word :=
  if s.busy && !s.sclk && s.bitCnt == 0 && s.mosi == s.shreg.getLsbD 7
      && s.byteIdx.toNat % 4 == 0 && s.byteIdx.toNat + 3 < s.cfg.frameBytes then
    some (wordOfBytes s.shreg (s.frameByte (s.byteIdx.toNat + 1)) (s.frameByte (s.byteIdx.toNat + 2))
      (s.frameByte (s.byteIdx.toNat + 3)))
  else none

/-- The engine sends the record `w`, if that is the record it is about to send. -/
def sendRecord (w : Word) (s : State) : Host.Outcome State Fault Refusal :=
  if dueRecord s = some w then .next (engineRun 64 s) else .fault .recordNotDue

/-- `ZEROREC` (R39). -/
def execZerorec (s : State) : Host.Outcome State Fault Refusal := sendRecord (encode .zerorec) s

/-- `PIXREC` (R38, R59). -/
def execPixrec (b g r : BitVec 2) (blue green red : Byte) (s : State) : Host.Outcome State Fault Refusal :=
  sendRecord (encode (.pixrec b g r blue green red)) s

end Sys2Proof.Machine
end

