-- ==== Sys2Proof/Machine/Dispatch.lean ====
section
/-! DEFINITION. One arm per instruction. -/

namespace Sys2Proof.Machine

def exec (i : Instr) (s : State) : Host.Outcome State Fault Refusal :=
  match i with
  | .nop => Sys2Proof.Machine.execNop s
  | .sethue idx hue => Sys2Proof.Machine.execSethue idx hue s
  | .start dim => Sys2Proof.Machine.execStart dim s
  | .status => Sys2Proof.Machine.execStatus s
  | .clrerr => Sys2Proof.Machine.execClrerr s
  -- the wire records
  | .zerorec => Sys2Proof.Machine.execZerorec s
  | .pixrec b g r blue green red => Sys2Proof.Machine.execPixrec b g r blue green red s

end Sys2Proof.Machine
end

