-- ==== Sys2Proof/Machine/Port.lean ====
section
/-! DEFINITION. The schedule of events (log entry 5): what `step` takes from it, and how a word is placed so that the
next step runs it. -/

namespace Sys2Proof.Machine

/-- The state with the first event of the schedule taken off. -/
def popEvent (s : State) : State := { s with agenda := s.agenda.tail }

/-- The host presents a command word next (R73). -/
def placeCommand (w : Word) (s : State) : State := { s with agenda := .command w :: s.agenda }

/-- The engine stands before the record of pixel 0 of a frame at dimming factor 0, in a unit whose tables send the raw
value 0 to the channels of the record, and sends that record next. This only serves to place a record of the
opcode table (log entry 10). -/
def placePixrec (blue green red : Byte) (w : Word) (s : State) : State :=
  { s with
    cfg := { s.cfg with
      n := if s.cfg.n.val = 0 then ⟨1, by decide⟩ else s.cfg.n
      glutR := s.cfg.glutR.set 0 red
      glutG := s.cfg.glutG.set 0 green
      glutB := s.cfg.glutB.set 0 blue }
    hue := if s.cfg.n.val = 0 then [0] else s.hue
    written := if s.cfg.n.val = 0 then [false] else s.written
    dlat := 0
    busy := true
    byteIdx := 4
    bitCnt := 0
    shreg := w.extractLsb' 24 8
    sclk := false
    mosi := w.getLsbD 31
    agenda := .record w :: s.agenda }

/-- Places a word of the opcode table: a pixel record as a record, every other word as a command (log entry 9). -/
def placeWord (w : Word) (s : State) : State :=
  match decodeRecord w with
  | .ok (.pixrec _ _ _ blue green red) => placePixrec blue green red w s
  | _ => placeCommand w s

end Sys2Proof.Machine
end

