-- ==== Sys2Proof/Machine/Step.lean ====
section
/-! DEFINITION. One step: the first event of the schedule happens; with none left the engine takes its edge if it has
one (spec/00_scope.md R11, spec/20_memory.md R31; log entry 5). -/

namespace Sys2Proof.Machine

/-- One step of whichever agent the schedule says. An illegal command word takes the error entry (R36, R73). -/
def step (s : State) : Host.Outcome State Fault Refusal :=
  match s.agenda with
  | [] => .next (engineEdge s)
  | .edge :: _ => .next (engineEdge (popEvent s))
  | .reset :: _ => .next (resetEvent (popEvent s))
  | .command w :: _ =>
    match decodeCommand w with
    | .ok i => exec i (popEvent s)
    | .error _ => .next (raiseErr .illegal (popEvent s))
  | .record w :: _ =>
    match decodeRecord w with
    | .ok i => exec i (popEvent s)
    | .error _ => .refused .notARecord

/-- `s` with the word placed so that the next step runs it (log entries 5, 9, 10). -/
def State.withFetchWord (s : State) (nbits w : Nat) : State :=
  placeWord (BitVec.ofNat 32 (w % 2 ^ nbits)) s

end Sys2Proof.Machine
end

