-- ==== Sys2Proof/Machine/Asm.lean ====
section
/-! DEFINITION. The written form of programs: mnemonics with operands as numbers, and the pseudo-instructions
(spec/30_encoding.md R42, R43; spec/45_host_commands.md R79). -/

namespace Sys2Proof.Machine

/-- A line of a program (R42, R43). A decimal number of degrees is `m / 10^k`. The number of polls of `WAIT`
depends on timing, so the line carries it: `polls` beyond the one that every `WAIT` makes. -/
inductive AsmLine where
  | nop
  | sethue (idx hue : Nat)
  | start (dim : Nat)
  | status
  | clrerr
  | off
  | wait (polls : Nat)
  | sethuedeg (idx m k : Nat)
  | frame (polls dim : Nat)
  deriving DecidableEq, Repr

/-- `SETHUE` with its operands in range; outside it is an assembly error, not a command (R42). -/
def asmSethue (idx hue : Nat) : Option (List Instr) :=
  if idx < 4096 ∧ hue < 65536 then some [.sethue (BitVec.ofNat 12 idx) (BitVec.ofNat 16 hue)] else none

/-- `START` with its operand in range (R42). -/
def asmStart (dim : Nat) : Option (List Instr) :=
  if dim < 256 then some [.start (BitVec.ofNat 8 dim)] else none

/-- `WAIT`: one or more `STATUS` (R43). -/
def asmWait (polls : Nat) : List Instr := List.replicate (polls + 1) .status

/-- The commands a line stands for, `none` for an assembly error (R42, R43). -/
def assembleLine : AsmLine → Option (List Instr)
  | .nop => some [.nop]
  | .sethue idx hue => asmSethue idx hue
  | .start dim => asmStart dim
  | .status => some [.status]
  | .clrerr => some [.clrerr]
  | .off => asmStart 0
  | .wait polls => some (asmWait polls)
  | .sethuedeg idx m k => if m < 512 * 10 ^ k then asmSethue idx (m * 128 / 10 ^ k) else none
  | .frame polls dim => (asmStart dim).map (asmWait polls ++ ·)

/-- The command words of a program, `none` if a line is an assembly error. -/
def assemble : List AsmLine → Option (List Word)
  | [] => some []
  | l :: ls =>
    match assembleLine l, assemble ls with
    | some is, some ws => some (is.map encode ++ ws)
    | _, _ => none

/-- One tick of the source's loop (R79): a `SETHUE` for every LED, one `START`, a `WAIT`. -/
def tickLines (hues : List Nat) (dim polls : Nat) : List AsmLine :=
  (List.range hues.length).map (fun i => .sethue i (hues.getD i 0)) ++ [.start dim, .wait polls]

/-- The shutdown of the source's loop (R79): `WAIT`, `OFF`, `WAIT`. -/
def shutdownLines (polls polls' : Nat) : List AsmLine := [.wait polls, .off, .wait polls']

end Sys2Proof.Machine
end

