-- ==== Sys2Proof/Safety.lean ====
section
/-! DEFINITION. The terms claims are stated in: the invariants of spec/10_state.md R22, the idle state, what the strip
has seen, and what counts as a safe run. -/

namespace Sys2Proof.Machine

/-- The hue file has `N` registers, and a mark for each (R15, U1). -/
def HueFileWf (s : State) : Prop :=
  s.hue.length = s.cfg.n.val ∧ s.written.length = s.cfg.n.val

/-- I1 of R22: the idle state has one representation. -/
def IdleClean (s : State) : Prop :=
  s.busy = false → s.sclk = false ∧ s.mosi = false ∧ s.shreg = 0 ∧ s.bitCnt = 0 ∧ s.byteIdx = 0

/-- I2 of R22: in a frame the shift register holds the rest of the current frame byte, and `MOSI` its top bit. -/
def ShiftHolds (s : State) : Prop :=
  s.busy = true →
    s.byteIdx.toNat < s.cfg.frameBytes ∧
    s.shreg = s.frameByte s.byteIdx.toNat <<< s.bitCnt.toNat ∧
    s.mosi = s.shreg.getLsbD 7

/-- I4 of R22: `ERR = 0` if and only if `CAUSE = 0`. -/
def CauseMatches (s : State) : Prop := s.err = false ↔ s.cause = .none

/-- The invariant of the machine (R22). I3 is about two states and is stated of the step. -/
structure Inv (s : State) : Prop where
  hueFile : HueFileWf s
  idle : IdleClean s
  shift : ShiftHolds s
  cause : CauseMatches s

/-- A command word that is none of the five commands, read from its bits (R36). -/
def illegalWord (w : Word) : Bool :=
  let op := w.toNat / 2 ^ 28
  decide (5 ≤ op) ||
  ((op == 0 || op == 3 || op == 4) && w.toNat % 2 ^ 28 != 0) ||
  (op == 2 && w.toNat / 2 ^ 8 % 2 ^ 20 != 0)

/-- The error a command word raises in a state, if any: `E_ILLEGAL`, then `E_BUSY`, then `E_RANGE` (R80, R83). -/
def portError (s : State) (w : Word) : Option Cause :=
  let op := w.toNat / 2 ^ 28
  if illegalWord w then some .illegal
  else if (op == 1 || op == 2) && s.busy then some .busy
  else if op == 1 && decide (s.cfg.n.val ≤ w.toNat / 2 ^ 16 % 2 ^ 12) then some .range
  else none

/-- The source's `hsv_to_rgb` over exact numbers: hue in degrees, saturation and value in `[0, 1]` (the formula
quoted in R52). -/
def hsvReal (h s v : ℚ) : Rgb ℚ :=
  let k := ⌊h / 60⌋
  let f := h / 60 - k
  let p := v * (1 - s)
  let q := v * (1 - s * f)
  let t := v * (1 - s * (1 - f))
  if s < 1 / 1000000 then ⟨v, v, v⟩
  else
    match (k % 6).toNat with
    | 0 => ⟨v, t, p⟩
    | 1 => ⟨q, v, p⟩
    | 2 => ⟨p, v, t⟩
    | 3 => ⟨p, q, v⟩
    | 4 => ⟨t, p, v⟩
    | _ => ⟨v, p, q⟩

/-- What two states that differ only in `ERR`, `CAUSE` and their image in `STATUS` answers have in common (R17). -/
def forgetErr (s : State) : State :=
  { s with
    err := false
    cause := .none
    responses := s.responses.map fun r => { r with rdata := r.rdata &&& 1 } }

/-- The same unit with another `SCLK_HALF` (R72). -/
def withSclkHalf (x : PNat) (s : State) : State := { s with cfg := { s.cfg with sclkHalf := x } }

/-- How many clock edges a schedule holds. -/
def edgeCount (es : List Event) : Nat := es.countP (· == .edge)

/-- A schedule of host commands and clock edges only, without reset. -/
def hostAndEngine (es : List Event) : Bool :=
  es.all fun e =>
    match e with
    | .command _ => true
    | .edge => true
    | .reset => false
    | .record _ => false

/-- The engine stands before the first edge of record `r` of its frame: record 0 is the start record, record `i + 1`
that of pixel `i`, records `N + 1` and `N + 2` the end records (R40). -/
def atRecord (s : State) (r : Nat) : Prop :=
  Inv s ∧ s.busy = true ∧ s.sclk = false ∧ s.bitCnt = 0 ∧ s.byteIdx.toNat = 4 * r

/-- The state after the engine has sent the 32 bits of `w` as record `r` of its frame: before the next record, or
idle after the last one (R70, R71). -/
def afterRecord (w : Word) (r : Nat) (s : State) : State :=
  let next := s.frameByte (4 * r + 4)
  if r < s.cfg.n.val + 2 then
    { s with
      trace := s.trace ++ bytesBits (wordBytes w)
      byteIdx := BitVec.ofNat 15 (4 * r + 4)
      shreg := next
      mosi := next.getLsbD 7 }
  else
    { s with
      trace := s.trace ++ bytesBits (wordBytes w)
      busy := false
      byteIdx := 0
      shreg := 0
      mosi := false }

/-- The samples the strip has taken since power-on (U2; log entry 7). -/
def wire (s : State) : List Bool := s.earlier ++ s.trace

/-- No accepted `START` of the run met a hue register that nothing had written since reset (R90, U1). -/
def Safe (s : State) : Prop := Inv s ∧ s.blindStart = false

end Sys2Proof.Machine
end

