-- ==== Sys2Proof/Certificates/Slice0/Obligations.lean ====
section
/-! DEFINITION. The statements for the provers. Each docstring names the rule of spec/ it formalises. -/

open Sys2Proof Sys2Proof.Machine

/-! ### Encodings -/

/-- Decoding the word of a well-formed instruction in its own space gives the instruction back (R34, R35, R38,
R39). -/
def Obligations.DecodeOfEncode : Prop :=
  ∀ i : Instr, i.wellFormed = true → decodeIn i.space (encode i) = .ok i

/-- A word that decodes in a space is the word of one well-formed instruction of that space: each word has one
meaning. -/
def Obligations.EncodeOfDecode : Prop :=
  ∀ (sp : Space) (w : Word) (i : Instr), decodeIn sp w = .ok i →
    i.space = sp ∧ i.wellFormed = true ∧ encode i = w

/-- R35: the words of the five commands, what each pattern of bits decodes as, and that every other word is
illegal. -/
def Obligations.CommandCodeTable : Prop :=
  (encode .nop).toNat = 0x00000000 ∧
  (∀ (idx : HueIndex) (hue : HueWord),
    (encode (.sethue idx hue)).toNat = 0x10000000 + idx.toNat * 65536 + hue.toNat) ∧
  (∀ dim : Byte, (encode (.start dim)).toNat = 0x20000000 + dim.toNat) ∧
  (encode .status).toNat = 0x30000000 ∧
  (encode .clrerr).toNat = 0x40000000 ∧
  ∀ w : Word,
    (w = 0x00000000#32 → decodeCommand w = .ok .nop) ∧
    (w.toNat / 2 ^ 28 = 1 →
      decodeCommand w = .ok (.sethue (w.extractLsb' 16 12) (w.extractLsb' 0 16))) ∧
    (w.toNat / 2 ^ 28 = 2 → w.toNat / 2 ^ 8 % 2 ^ 20 = 0 →
      decodeCommand w = .ok (.start (w.extractLsb' 0 8))) ∧
    (w = 0x30000000#32 → decodeCommand w = .ok .status) ∧
    (w = 0x40000000#32 → decodeCommand w = .ok .clrerr) ∧
    (w ≠ 0x00000000#32 → w.toNat / 2 ^ 28 ≠ 1 →
      ¬ (w.toNat / 2 ^ 28 = 2 ∧ w.toNat / 2 ^ 8 % 2 ^ 20 = 0) →
      w ≠ 0x30000000#32 → w ≠ 0x40000000#32 →
      ∃ e, decodeCommand w = .error e)

/-- R36: exactly which command words are illegal, and that an illegal word is refused with `E_ILLEGAL` and changes
nothing else, whatever the state. -/
def Obligations.IllegalWordRefused : Prop :=
  ∀ w : Word,
    ((∃ e, decodeCommand w = .error e) ↔
      (5 ≤ w.toNat / 2 ^ 28 ∨
       ((w.toNat / 2 ^ 28 = 0 ∨ w.toNat / 2 ^ 28 = 3 ∨ w.toNat / 2 ^ 28 = 4) ∧ w.toNat % 2 ^ 28 ≠ 0) ∨
       (w.toNat / 2 ^ 28 = 2 ∧ w.toNat / 2 ^ 8 % 2 ^ 20 ≠ 0))) ∧
    ∀ (s : State) (rest : List Event), (∃ e, decodeCommand w = .error e) → s.agenda = .command w :: rest →
      step s = .next { s with
        agenda := rest
        err := true
        cause := if s.err then s.cause else .illegal
        responses := s.responses ++ [⟨.refused, 0⟩] }

/-- R38: for every three corrected channels there is exactly one pixel record word, its bytes are flag, blue, green,
red from the most significant end, its flag bits are as the table of R38 has them, and on the wire it is its bits
from bit 31 down. -/
def Obligations.PixelRecordUnique : Prop :=
  ∀ blue green red : Byte, ∃ w : Word,
    (∃ b g r, decodeRecord w = .ok (.pixrec b g r blue green red)) ∧
    (∀ w' b g r, decodeRecord w' = .ok (.pixrec b g r blue green red) → w' = w) ∧
    w.extractLsb' 16 8 = blue ∧ w.extractLsb' 8 8 = green ∧ w.extractLsb' 0 8 = red ∧
    w.getLsbD 31 = true ∧ w.getLsbD 30 = true ∧
    w.getLsbD 29 = !blue.getLsbD 7 ∧ w.getLsbD 28 = !blue.getLsbD 6 ∧
    w.getLsbD 27 = !green.getLsbD 7 ∧ w.getLsbD 26 = !green.getLsbD 6 ∧
    w.getLsbD 25 = !red.getLsbD 7 ∧ w.getLsbD 24 = !red.getLsbD 6 ∧
    wordBytes w = [w.extractLsb' 24 8, blue, green, red] ∧
    ∀ m, m < 32 → (bytesBits (wordBytes w))[m]? = some (w.getLsbD (31 - m))

/-- Words written out from the spec's encodings (spec/95_test_vectors.md section 8) decode as they should. -/
def Obligations.SampleWordsDecode : Prop :=
  decodeCommand 0x00000000#32 = .ok .nop ∧
  decodeCommand 0x10020F00#32 = .ok (.sethue 2 3840) ∧
  decodeCommand 0x104BFFFF#32 = .ok (.sethue 75 65535) ∧
  decodeCommand 0x20000080#32 = .ok (.start 128) ∧
  decodeCommand 0x20000100#32 = .error .mustBeZero ∧
  decodeCommand 0x30000000#32 = .ok .status ∧
  decodeCommand 0x40000000#32 = .ok .clrerr ∧
  decodeCommand 0xC0FFFFFF#32 = .error .reservedOp ∧
  decodeRecord 0x00000000#32 = .ok .zerorec ∧
  decodeRecord 0xDF89380C#32 = .ok (.pixrec 1 3 3 0x89 0x38 0x0C) ∧
  decodeRecord 0xFFFFFFFF#32 = .error .flagMismatch ∧
  decodeRecord 0x3F000000#32 = .error .notARecord

/-- R42, R43: operands out of their fields are assembly errors, and what the pseudo-instructions stand for. -/
def Obligations.PseudoInstructions : Prop :=
  (∀ idx hue, assembleLine (.sethue idx hue) =
    if idx ≤ 4095 ∧ hue ≤ 65535 then some [.sethue (BitVec.ofNat 12 idx) (BitVec.ofNat 16 hue)] else none) ∧
  (∀ dim, assembleLine (.start dim) = if dim ≤ 255 then some [.start (BitVec.ofNat 8 dim)] else none) ∧
  assembleLine .off = some [.start 0] ∧
  (∀ polls, assembleLine (.wait polls) = some (List.replicate (polls + 1) .status)) ∧
  (∀ idx m k, m < 512 * 10 ^ k →
    assembleLine (.sethuedeg idx m k) = assembleLine (.sethue idx ⌊(m : ℚ) / 10 ^ k * 128⌋.toNat)) ∧
  (∀ polls dim, assembleLine (.frame polls dim) =
    (assembleLine (.start dim)).map fun is => List.replicate (polls + 1) .status ++ is)

/-! ### The step -/

/-- A step runs the decoded instruction: of the command word that is next on the port, and of the record that is
next on the wire. `step` adds to `exec` only that the event is taken off the schedule (R73, R31; the schedule is the model's, log
entry 5). -/
def Obligations.StepRunsDecoded : Prop :=
  ∀ (s : State) (w : Word) (rest : List Event) (i : Instr),
    (s.agenda = .command w :: rest → decodeCommand w = .ok i → step s = exec i { s with agenda := rest }) ∧
    (s.agenda = .record w :: rest → decodeRecord w = .ok i → step s = exec i { s with agenda := rest })

/-- The machine stops only at a scheduled wire record: with a refusal where the word is no record, with a fault where it
is not the record the engine is about to send (the model's own stops, log entry 8). Every other event has a next
state. -/
def Obligations.StopsOnlyAtRecords : Prop :=
  ∀ s : State,
    (∀ r, step s = .refused r ↔
      r = .notARecord ∧ ∃ w rest, s.agenda = .record w :: rest ∧ ∃ e, decodeRecord w = .error e) ∧
    (∀ f, step s = .fault f ↔
      f = .recordNotDue ∧ ∃ w rest, s.agenda = .record w :: rest ∧
        (∃ i, decodeRecord w = .ok i) ∧ dueRecord s ≠ some w)

/-! ### Host commands -/

/-- R74: `NOP` is the word 0, a word with `op = 0` and other bits set is not `NOP`, and `NOP` in any state leaves the state
unchanged and answers `(OK, 0)`. -/
def Obligations.NopEffect : Prop :=
  encode .nop = 0x00000000#32 ∧
  (∀ w : Word, w.toNat / 2 ^ 28 = 0 → w ≠ 0 → ∃ e, decodeCommand w = .error e) ∧
  ∀ s : State, exec .nop s = .next { s with responses := s.responses ++ [⟨.ok, 0⟩] }

/-- R75: `SETHUE idx, hue` is refused with `E_BUSY` while a frame is in flight, else with `E_RANGE` where `idx >= N`, else
it writes `HUE[idx]` and nothing else of the block and answers `(OK, 0)`. The marks (log entry 11) are the model's
bookkeeping: their new value is left open here. -/
def Obligations.SethueEffect : Prop :=
  ∀ (s : State) (idx : HueIndex) (hue : HueWord),
    (encode (.sethue idx hue)).toNat = 0x10000000 + idx.toNat * 65536 + hue.toNat ∧
    (s.busy = true → exec (.sethue idx hue) s = .next { s with
      err := true
      cause := if s.err then s.cause else .busy
      responses := s.responses ++ [⟨.refused, 0⟩] }) ∧
    (s.busy = false → s.cfg.n.val ≤ idx.toNat → exec (.sethue idx hue) s = .next { s with
      err := true
      cause := if s.err then s.cause else .range
      responses := s.responses ++ [⟨.refused, 0⟩] }) ∧
    (s.busy = false → idx.toNat < s.cfg.n.val → s.hue.length = s.cfg.n.val →
      ∃ hues marks,
        exec (.sethue idx hue) s = .next { s with
          hue := hues
          written := marks
          responses := s.responses ++ [⟨.ok, 0⟩] } ∧
        hues.length = s.cfg.n.val ∧ hueAt hues idx.toNat = hue ∧
        ∀ j, j ≠ idx.toNat → hueAt hues j = hueAt s.hue j)

/-- R76: `START dim` is refused with `E_BUSY` while a frame is in flight; else it latches `dim`, sets `BUSY`, loads
`FrameByte(0)`, which is 0, answers `(OK, 0)` at once, and the frame is that of the hues as they are and of `dim`. The
record of U1 (log entry 11) is the model's bookkeeping: its new value is left open here. -/
def Obligations.StartEffect : Prop :=
  ∀ (s : State) (dim : Byte),
    (encode (.start dim)).toNat = 0x20000000 + dim.toNat ∧
    (s.busy = true → exec (.start dim) s = .next { s with
      err := true
      cause := if s.err then s.cause else .busy
      responses := s.responses ++ [⟨.refused, 0⟩] }) ∧
    (s.busy = false → ∃ blind,
      exec (.start dim) s = .next { s with
        dlat := dim
        busy := true
        byteIdx := 0
        shreg := 0x00
        bitCnt := 0
        mosi := false
        blindStart := blind
        responses := s.responses ++ [⟨.ok, 0⟩] }) ∧
    (∀ t, s.busy = false → Inv s → exec (.start dim) s = .next t →
      s.sclk = false ∧ t.sclk = false ∧ t.frame = frameOf s.cfg s.hue dim)

/-- R77: `STATUS` writes no state and answers `(OK, zext_32({CAUSE, ERR, BUSY}))`, whatever the state; other words with its
`op` are illegal. -/
def Obligations.StatusEffect : Prop :=
  encode .status = 0x30000000#32 ∧
  (∀ w : Word, w.toNat / 2 ^ 28 = 3 → w ≠ 0x30000000#32 → ∃ e, decodeCommand w = .error e) ∧
  ∀ s : State, ∃ d : Word,
    exec .status s = .next { s with responses := s.responses ++ [⟨.ok, d⟩] } ∧
    d.toNat = 4 * (causeCode s.cause).toNat + 2 * s.err.toNat + s.busy.toNat

/-- R78: `CLRERR` clears `ERR` and `CAUSE`, touches nothing else, and answers `(OK, 0)`, whatever the state; other words
with its `op` are illegal. -/
def Obligations.ClrerrEffect : Prop :=
  encode .clrerr = 0x40000000#32 ∧
  (∀ w : Word, w.toNat / 2 ^ 28 = 4 → w ≠ 0x40000000#32 → ∃ e, decodeCommand w = .error e) ∧
  ∀ s : State, exec .clrerr s = .next { s with
    err := false
    cause := .none
    responses := s.responses ++ [⟨.ok, 0⟩] }

/-- R84: the error entry keeps the first cause since the last `CLRERR`, sets `ERR`, answers `(REFUSED, 0)` and changes
nothing else. -/
def Obligations.ErrorEntry : Prop :=
  ∀ (c : Cause) (s : State), c ≠ .none →
    ∃ kept,
      raiseErr c s = { s with
        err := true
        cause := kept
        responses := s.responses ++ [⟨.refused, 0⟩] } ∧
      (s.err = false → kept = c) ∧ (s.err = true → kept = s.cause)

/-- R83: a command raises at most one error, `E_ILLEGAL` first, then `E_BUSY`, then `E_RANGE` (the order is in
`portError`); a command that raises one takes the error entry and nothing more; one that raises none is answered
`OK` and records no error; and no other step raises an error. -/
def Obligations.ErrorPriority : Prop :=
  (∀ (s : State) (w : Word) (rest : List Event), s.agenda = .command w :: rest →
    (∀ c, portError s w = some c → step s = .next { s with
      agenda := rest
      err := true
      cause := if s.err then s.cause else c
      responses := s.responses ++ [⟨.refused, 0⟩] }) ∧
    (portError s w = none → ∃ t d, step s = .next t ∧ t.responses = s.responses ++ [⟨.ok, d⟩] ∧
      (t.err = true → s.err = true ∧ t.cause = s.cause))) ∧
  (∀ s t : State, step s = .next t → (∀ w, s.agenda.head? ≠ some (.command w)) →
    t.err = true → s.err = true ∧ t.cause = s.cause)

/-- The glossary's `refused` (R13): a command of the port that answers `REFUSED` has changed nothing but `ERR` and
`CAUSE`. -/
def Obligations.RefusedChangesNothingElse : Prop :=
  ∀ (i : Instr) (s t : State) (d : Word), i.space = .command →
    exec i s = .next t → t.responses = s.responses ++ [⟨.refused, d⟩] →
    d = 0 ∧ t = { s with err := true, cause := t.cause, responses := t.responses }

/-- `ERR` blocks nothing (R17): two states that differ in `ERR` and `CAUSE` alone take steps that differ in `ERR`, `CAUSE` and
the image of the two in `STATUS` answers alone. -/
def Obligations.ErrBlocksNothing : Prop :=
  ∀ (s t : State) (e : Bool) (c : Cause), step s = .next t →
    ∃ t', step { s with err := e, cause := c } = .next t' ∧ forgetErr t' = forgetErr t

/-- U1 and U11 (log entry 11): an accepted `SETHUE` marks its register and no other, an accepted `START` records whether
some register has no mark, and a reset event clears every mark and keeps the record. -/
def Obligations.WrittenMarks : Prop :=
  (∀ (s t : State), HueFileWf s → s.busy = false →
    (∀ (idx : HueIndex) (hue : HueWord), idx.toNat < s.cfg.n.val → exec (.sethue idx hue) s = .next t →
      t.blindStart = s.blindStart ∧
      ∀ j, t.written.getD j false = true ↔ (j = idx.toNat ∨ s.written.getD j false = true)) ∧
    (∀ dim : Byte, exec (.start dim) s = .next t →
      t.written = s.written ∧
      (t.blindStart = true ↔
        (s.blindStart = true ∨ ∃ i, i < s.cfg.n.val ∧ s.written.getD i false = false)))) ∧
  (∀ (s : State) (rest : List Event), s.agenda = .reset :: rest →
    ∃ t, step s = .next t ∧ t.written.length = s.cfg.n.val ∧ (∀ j, t.written.getD j false = false) ∧
      t.blindStart = s.blindStart)

/-! ### Registers, status and reset -/

/-- R18, R80: the codes of the causes, the fields of `STATUS` and its legal values in every state that meets the
invariant. -/
def Obligations.StatusLegalValues : Prop :=
  (causeCode .none = 0 ∧ causeCode .illegal = 1 ∧ causeCode .busy = 2 ∧ causeCode .range = 3) ∧
  ∀ s : State, Inv s →
    (statusView s).getLsbD 0 = s.busy ∧ (statusView s).getLsbD 1 = s.err ∧
    (statusView s).extractLsb' 2 2 = causeCode s.cause ∧ (statusView s).toNat / 16 = 0 ∧
    ((statusView s).toNat = 0 ∨ (statusView s).toNat = 1 ∨
      ∃ c, 1 ≤ c ∧ c ≤ 3 ∧ ((statusView s).toNat = 2 + 4 * c ∨ (statusView s).toNat = 3 + 4 * c))

/-- R89: what one reset event leaves, in any state. Nothing is said of the hue words but their number. -/
def Obligations.ResetEvent : Prop :=
  ∀ (s : State) (rest : List Event), s.agenda = .reset :: rest →
    ∃ t, step s = .next t ∧
      t.busy = false ∧ t.err = false ∧ t.cause = .none ∧ t.dlat = 0 ∧ t.byteIdx = 0 ∧ t.bitCnt = 0 ∧
      t.shreg = 0 ∧ t.sclk = false ∧ t.mosi = false ∧ t.hue.length = s.cfg.n.val ∧ t.cfg = s.cfg ∧
      statusView t = 0x00000000#32 ∧ t.trace = [] ∧ t.agenda = rest

/-- The invariant holds after power-on of every unit whatever its hue registers hold, and at `State.reset` (whose
configuration and hue words are the model's choice, log entries 2 and 3). -/
def Obligations.PowerOnInv : Prop :=
  (∀ (c : Config) (hues : List HueWord), hues.length = c.n.val → Inv (State.powerOn c hues)) ∧ Inv State.reset

/-- Every step keeps the invariants I1, I2 and I4 of R22, with `N` registers in the hue file. -/
def Obligations.StepKeepsInv : Prop :=
  ∀ s t : State, Inv s → step s = .next t → Inv t

/-- I3 of R22: while `BUSY = 1` no step but reset changes `HUE`, `DLAT`, the configuration or any byte of the frame. -/
def Obligations.FrameFrozenWhileBusy : Prop :=
  ∀ s t : State, s.busy = true → s.agenda.head? ≠ some .reset → step s = .next t →
    t.hue = s.hue ∧ t.dlat = s.dlat ∧ t.cfg = s.cfg ∧ ∀ k, t.frameByte k = s.frameByte k

/-- No step writes the configuration, the gamma tables among it (R6, R20). -/
def Obligations.ConfigurationConstant : Prop :=
  ∀ s t : State, step s = .next t → t.cfg = s.cfg

/-- `SCLK_HALF` is read by nothing (R72): units that differ in it alone take the same steps. -/
def Obligations.SclkHalfUnused : Prop :=
  ∀ (s : State) (x : PNat),
    (∀ t, step s = .next t → step (withSclkHalf x s) = .next (withSclkHalf x t)) ∧
    (∀ f, step s = .fault f → step (withSclkHalf x s) = .fault f) ∧
    (∀ r, step s = .refused r → step (withSclkHalf x s) = .refused r)

/-- R15: a hue register changes only by a `SETHUE` that names it, issued while `BUSY = 0` with `idx < N`, or by reset. -/
def Obligations.HueOnlyBySethue : Prop :=
  ∀ (s t : State) (j : Nat), step s = .next t → hueAt t.hue j ≠ hueAt s.hue j →
    s.agenda.head? = some .reset ∨
    ∃ (idx : HueIndex) (hue : HueWord), s.agenda.head? = some (.command (encode (.sethue idx hue))) ∧
      s.busy = false ∧ idx.toNat < s.cfg.n.val ∧ j = idx.toNat ∧ hueAt t.hue j = hue

/-- R17: `BUSY` is set only by an accepted `START`; it is cleared only by the falling edge of the last bit of the last
byte, alone or at the end of the last record, and by reset. -/
def Obligations.BusyChanges : Prop :=
  ∀ s t : State, Inv s → step s = .next t →
    (s.busy = false → t.busy = true →
      ∃ dim : Byte, s.agenda.head? = some (.command (encode (.start dim))) ∧ t.dlat = dim) ∧
    (s.busy = true → t.busy = false →
      s.agenda.head? = some .reset ∨
      ((s.agenda.head? = none ∨ s.agenda.head? = some .edge) ∧ s.sclk = true ∧
        s.bitCnt = 7 ∧ s.byteIdx.toNat + 1 = s.cfg.frameBytes) ∨
      (s.agenda.head? = some (.record 0) ∧ atRecord s (s.cfg.n.val + 2)))

/-- R16: the position in the frame. `RISE` leaves it, each `FALL` advances it by one until the last bit, after which
`BUSY` and the position are 0; it is below `FRAME_BITS`, and 0 while idle. -/
def Obligations.PositionAdvances : Prop :=
  ∀ s : State, Inv s →
    pos s < s.cfg.frameBits ∧
    (s.busy = false → pos s = 0) ∧
    (s.busy = true → s.sclk = false → pos (engineEdge s) = pos s) ∧
    (s.busy = true → s.sclk = true → pos s + 1 < s.cfg.frameBits →
      (engineEdge s).busy = true ∧ pos (engineEdge s) = pos s + 1) ∧
    (s.busy = true → s.sclk = true → pos s + 1 = s.cfg.frameBits →
      (engineEdge s).busy = false ∧ pos (engineEdge s) = 0)

/-- R12: the sample trace. In a step of the engine by one edge a sample is taken exactly when `SCLK` rises, and it is the
value of `MOSI`; commands take none; reset empties the trace and the strip keeps what it saw (log entry 7). -/
def Obligations.TraceIsMosiAtRises : Prop :=
  ∀ s t : State, step s = .next t →
    (s.agenda.head? = none ∨ s.agenda.head? = some .edge →
      (s.sclk = false ∧ t.sclk = true → t.trace = s.trace ++ [s.mosi] ∧ t.mosi = s.mosi) ∧
      (¬ (s.sclk = false ∧ t.sclk = true) → t.trace = s.trace)) ∧
    (∀ w, s.agenda.head? = some (.command w) → t.trace = s.trace ∧ t.sclk = s.sclk) ∧
    (s.agenda.head? = some .reset → t.trace = [] ∧ wire t = wire s)

/-! ### The engine -/

/-- R67: while `BUSY = 0` the serializer is idle, it has no step, and no step of any agent moves `SCLK`. -/
def Obligations.IdleEngine : Prop :=
  ∀ s : State, Inv s → s.busy = false →
    s.sclk = false ∧ s.mosi = false ∧ s.shreg = 0 ∧ s.bitCnt = 0 ∧
    (∀ rest, s.agenda = .edge :: rest → step s = .next { s with agenda := rest }) ∧
    (s.agenda = [] → step s = .next s) ∧
    (∀ t, step s = .next t → t.sclk = false ∧ wire t = wire s)

/-- R69: `RISE`, enabled when `BUSY = 1` and `SCLK = 0`, sets `SCLK`, samples `MOSI`, changes nothing else, and the bit is
bit `7 - BITCNT` of `FrameByte(BYTEIDX)`. -/
def Obligations.RiseEffect : Prop :=
  ∀ s : State, s.busy = true → s.sclk = false →
    (∀ rest, s.agenda = .edge :: rest →
      step s = .next { s with agenda := rest, sclk := true, trace := s.trace ++ [s.mosi] }) ∧
    (Inv s → s.mosi = (s.frameByte s.byteIdx.toNat).getLsbD (7 - s.bitCnt.toNat))

/-- R70: the three cases of `FALL`, enabled when `BUSY = 1` and `SCLK = 1`. -/
def Obligations.FallEffect : Prop :=
  ∀ (s : State) (rest : List Event), s.busy = true → s.sclk = true → s.agenda = .edge :: rest →
    (s.bitCnt.toNat < 7 → step s = .next { s with
      agenda := rest
      sclk := false
      shreg := s.shreg <<< 1
      bitCnt := s.bitCnt + 1
      mosi := s.shreg.getLsbD 6 }) ∧
    (s.bitCnt = 7 → s.byteIdx.toNat < 4 * (s.cfg.n.val + 3) - 1 → step s = .next { s with
      agenda := rest
      sclk := false
      byteIdx := s.byteIdx + 1
      shreg := s.frameByte (s.byteIdx.toNat + 1)
      bitCnt := 0
      mosi := (s.frameByte (s.byteIdx.toNat + 1)).getLsbD 7 }) ∧
    (s.bitCnt = 7 → ¬ s.byteIdx.toNat < 4 * (s.cfg.n.val + 3) - 1 → step s = .next { s with
      agenda := rest
      sclk := false
      busy := false
      byteIdx := 0
      bitCnt := 0
      shreg := 0
      mosi := false })

/-- R71, the engine alone: from an accepted `START` the engine takes exactly `2*FRAME_BITS` steps, in which it puts the
bits of the frame on the wire, each byte most significant bit first, and then the block is idle. After `m` steps
`(m+1)/2` bits have been sampled. -/
def Obligations.FrameOnTheWire : Prop :=
  ∀ (s t : State) (dim : Byte), Inv s → s.busy = false → exec (.start dim) s = .next t →
    (∀ m, m < 2 * s.cfg.frameBits →
      (engineRun m t).busy = true ∧
      (engineRun m t).trace = s.trace ++ (bytesBits (frameOf s.cfg s.hue dim)).take ((m + 1) / 2)) ∧
    engineRun (2 * s.cfg.frameBits) t =
      { t with busy := false, trace := s.trace ++ bytesBits (frameOf s.cfg s.hue dim) }

/-- R71 with a host that issues commands meanwhile: whatever commands stand between the clock edges of the schedule, the
samples are those of the frame of the state at the `START`, and until all edges have happened the block stays
busy with the same hues and dimming factor. The schedule is the model's (R31; log entry 5). -/
def Obligations.FrameOnTheWireAnySchedule : Prop :=
  ∀ (s t : State) (dim : Byte) (es : List Event), Inv s → s.busy = false → exec (.start dim) s = .next t →
    hostAndEngine es = true → edgeCount es ≤ 2 * s.cfg.frameBits →
    ∃ u : State, Host.Core.run Sys2Proof.core es.length ({ t with agenda := es } : State) = .next u ∧
      u.trace = s.trace ++ (bytesBits (frameOf s.cfg s.hue dim)).take ((edgeCount es + 1) / 2) ∧
      (edgeCount es < 2 * s.cfg.frameBits → u.busy = true ∧ u.hue = s.hue ∧ u.dlat = dim)

/-- R71: sample number `p` of a frame is bit `7 - (p mod 8)` of byte `p div 8`. -/
def Obligations.SampleNumbering : Prop :=
  ∀ (c : Config) (hues : List HueWord) (d : Byte) (p : Nat), p < c.frameBits →
    (bytesBits (frameOf c hues d))[p]? = some ((frameByte c hues d (p / 8)).getLsbD (7 - p % 8))

/-- The zero record (R39, R71) completes where the engine stands before one of the three zero records of its frame: it
puts 32 zero bits on the wire. That a record is run as one event is the model's choice (log entry 8). -/
def Obligations.ZerorecCompletes : Prop :=
  ∀ (s : State) (r : Nat), atRecord s r → r = 0 ∨ r = s.cfg.n.val + 1 ∨ r = s.cfg.n.val + 2 →
    exec .zerorec s = .next (afterRecord 0 r s) ∧ bytesBits (wordBytes 0) = List.replicate 32 false

/-- A pixel record (R38, R59, R71) completes where the engine stands before the record of pixel `i` and its operands are
those of that record: it puts the record's four bytes on the wire. That a record is run as one event is the model's
choice (log entry 8). -/
def Obligations.PixrecCompletes : Prop :=
  ∀ (s : State) (i : Nat) (p : Pixel), atRecord s (i + 1) → i < s.cfg.n.val →
    p = pixelOf s.cfg s.hue s.dlat i →
    exec (.pixrec (~~~(top2 p.blue)) (~~~(top2 p.green)) (~~~(top2 p.red)) p.blue p.green p.red) s =
      .next (afterRecord p.word (i + 1) s) ∧
    wordBytes p.word = [p.flag, p.blue, p.green, p.red]

/-- A record that is not the one the engine is about to send stops by name (the model's own stop, log entry 8): while
idle, off a record boundary, or where the frame has another record. -/
def Obligations.RecordNotDueStops : Prop :=
  ∀ (s : State) (i : Instr), i.space = .wire →
    (s.busy = false ∨ s.sclk = true ∨ s.bitCnt ≠ 0 ∨ s.byteIdx.toNat % 4 ≠ 0 ∨
      (∃ r, atRecord s r ∧ wordBytes (encode i) ≠ (List.range 4).map fun j => s.frameByte (4 * r + j))) →
    exec i s = .fault .recordNotDue

/-! ### Gamma tables -/

/-- R44: for a positive exponent every level has exactly one table entry, the clamp never acts, level 0 gives 0, level 255
gives 255, and exponent 1 is the identity. -/
def Obligations.GammaEntryCorners : Prop :=
  (∀ (g : ℝ) (i : Nat), 0 < g → i ≤ 255 →
    (∃! y, GammaEntry g i y) ∧
    (∀ y, GammaEntry g i y → (y : ℤ) = ⌊255 * ((i : ℝ) / 255) ^ g + 1 / 2⌋)) ∧
  (∀ g : ℝ, 0 < g → GammaEntry g 0 0 ∧ GammaEntry g 255 255) ∧
  (∀ i, i ≤ 255 → GammaEntry 1 i i)

/-- The tables of positive exponents are non-decreasing: R47 for exponents of at least 1, and for those below 1 what
the spec marks as its own inference from R44. -/
def Obligations.GammaNonDecreasing : Prop :=
  ∀ (g : ℝ) (t : Table) (i : Nat) (hi : i < 255), 0 < g → GammaTable g t →
    (t[i]'(by omega)).toNat ≤ (t[i + 1]'(by omega)).toNat

/-- R45 for rational exponents: the tables the model computes in exact integers are those of the real-number rule, with
the green and blue exponents exchanged as `SWAP_GB` says; no other parameter changes (log entry 12). -/
def Obligations.GlutBuildMeetsRule : Prop :=
  ∀ (c : Config) (gR gG gB : Exponent),
    0 < gR.num → 0 < gR.den → 0 < gG.num → 0 < gG.den → 0 < gB.num → 0 < gB.den →
    (glutBuild c gR gG gB).BuiltFrom (gR.num / gR.den) (gG.num / gG.den) (gB.num / gB.den) ∧
    ∃ tr tg tb, glutBuild c gR gG gB = { c with glutR := tr, glutG := tg, glutB := tb }

/-- The table of spec/95_test_vectors.md section 2.1 is that of the real-number rule for exponent 2.2, so the scenario's
unit is legal (that `State.reset` has it is the model's choice, log entry 2). -/
def Obligations.ScenarioBuilt : Prop :=
  Config.scenario.BuiltFrom 2.2 2.2 2.2

/-! ### Colour conversion -/

/-- R52: the numerators over `DEN` are exactly the source's real-number formula at hue `H/128` degrees, saturation `S/255`
and value `V/255`. -/
def Obligations.HsvMeetsRealFormula : Prop :=
  ∀ (h : HueWord) (sa va : Byte),
    let x := hsv2rgb h sa va
    let y := hsvReal (h.toNat / 128) (sa.toNat / 255) (va.toNat / 255)
    (x.r : ℚ) / den = y.r ∧ (x.g : ℚ) / den = y.g ∧ (x.b : ℚ) / den = y.b

/-- The range of the numerators (R51, R53(e)): the largest is `V*1958400`, the smallest `V*(255-S)*7680`, none exceeds
`DEN`. -/
def Obligations.HsvRange : Prop :=
  ∀ (h : HueWord) (sa va : Byte),
    let x := hsv2rgb h sa va
    max x.r (max x.g x.b) = va.toNat * 1958400 ∧
    min x.r (min x.g x.b) = va.toNat * (255 - sa.toNat) * 7680 ∧
    x.r ≤ den ∧ x.g ≤ den ∧ x.b ≤ den

/-- R53(a), (b), (c): no saturation is grey whatever the hue, no value is black, and on the boundary between two sectors
the colour is the one the lower sector runs into. -/
def Obligations.HsvCornerCases : Prop :=
  (∀ (h : HueWord) (va : Byte), hsv2rgb h 0 va = ⟨va.toNat * 1958400, va.toNat * 1958400, va.toNat * 1958400⟩) ∧
  (∀ (h : HueWord) (sa : Byte), hsv2rgb h sa 0 = ⟨0, 0, 0⟩) ∧
  (∀ (k : Nat) (sa va : Byte), k < 6 →
    let cv := va.toNat * 1958400
    let cp := va.toNat * (255 - sa.toNat) * 7680
    hsv2rgb (BitVec.ofNat 16 (7680 * k)) sa va =
      if k = 0 then ⟨cv, cp, cp⟩ else if k = 1 then ⟨cv, cv, cp⟩ else if k = 2 then ⟨cp, cv, cp⟩
      else if k = 3 then ⟨cp, cv, cv⟩ else if k = 4 then ⟨cp, cp, cv⟩ else ⟨cv, cp, cv⟩)

/-- R54: the conversion is periodic, so a hue word of a full turn or more shows the hue one turn lower; and no such word
is refused for its hue. -/
def Obligations.HsvPeriodic : Prop :=
  (∀ (h : HueWord) (sa va : Byte), h.toNat + 46080 ≤ 65535 → hsv2rgb (h + 46080) sa va = hsv2rgb h sa va) ∧
  (∀ (s : State) (idx : HueIndex) (hue : HueWord), s.busy = false → idx.toNat < s.cfg.n.val →
    46080 ≤ hue.toNat → ∃ t, exec (.sethue idx hue) s = .next t ∧ t.responses = s.responses ++ [⟨.ok, 0⟩])

/-- R56: `SCALE8` is the one truncation `floor(c*D)` of the channel `c = C/DEN`, with the corner cases of the rule. -/
def Obligations.ScaleTruncatesOnce : Prop :=
  (∀ (c : Nat) (d : Byte), c ≤ den →
    ((scale8 c d).toNat : ℤ) = ⌊(c : ℚ) / den * d.toNat⌋ ∧
    (scale8 c d).toNat = c * d.toNat / 499392000 ∧
    (scale8 c d).toNat ≤ d.toNat ∧
    scale8 c 0 = 0 ∧
    (scale8 c 1 = if c = den then 1 else 0)) ∧
  (∀ (c c' : Nat) (d d' : Byte), c ≤ c' → c' ≤ den → d.toNat ≤ d'.toNat →
    (scale8 c d).toNat ≤ (scale8 c' d').toNat) ∧
  scale8 den 255 = 255 ∧ scale8 249696000 255 = 127 ∧ scale8 249696000 128 = 64

/-- R57: at full saturation and value the raw channels are `D`, 0 and the two ramps of the sector. -/
def Obligations.FullSaturationRaw : Prop :=
  ∀ (c : Config) (h : HueWord) (d : Byte), c.sat = 255 → c.val = 255 →
    let rem := h.toNat % 7680
    let up := BitVec.ofNat 8 (rem * d.toNat / 7680)
    let down := BitVec.ofNat 8 ((7680 - rem) * d.toNat / 7680)
    rawColour c h d =
      match h.toNat / 7680 % 6 with
      | 0 => ⟨d, up, 0⟩
      | 1 => ⟨down, d, 0⟩
      | 2 => ⟨0, d, up⟩
      | 3 => ⟨0, down, d⟩
      | 4 => ⟨up, 0, d⟩
      | _ => ⟨d, 0, down⟩

/-! ### Pixel records and frames -/

/-- R60: the flag byte, bit by bit, from the corrected channels that follow it, and as `0xFF` less the packed bits. -/
def Obligations.FlagByte : Prop :=
  ∀ (c : Config) (raw : Rgb Byte),
    let p := pixenc c raw
    p.flag.getLsbD 7 = true ∧ p.flag.getLsbD 6 = true ∧
    p.flag.getLsbD 5 = !p.blue.getLsbD 7 ∧ p.flag.getLsbD 4 = !p.blue.getLsbD 6 ∧
    p.flag.getLsbD 3 = !p.green.getLsbD 7 ∧ p.flag.getLsbD 2 = !p.green.getLsbD 6 ∧
    p.flag.getLsbD 1 = !p.red.getLsbD 7 ∧ p.flag.getLsbD 0 = !p.red.getLsbD 6 ∧
    p.flag.toNat = 255 - (16 * (p.blue.toNat / 64) + 4 * (p.green.toNat / 64) + p.red.toNat / 64)

/-- R61(d): the channels are independent: another raw red value changes at most the red byte and its own two flag
bits, and so for green and blue. -/
def Obligations.ChannelsIndependent : Prop :=
  ∀ (c : Config) (r g b x : Byte),
    let p := pixenc c ⟨r, g, b⟩
    (let q := pixenc c ⟨x, g, b⟩
     q.blue = p.blue ∧ q.green = p.green ∧ q.flag.extractLsb' 2 6 = p.flag.extractLsb' 2 6) ∧
    (let q := pixenc c ⟨r, x, b⟩
     q.blue = p.blue ∧ q.red = p.red ∧ q.flag.extractLsb' 4 4 = p.flag.extractLsb' 4 4 ∧
       q.flag.extractLsb' 0 2 = p.flag.extractLsb' 0 2) ∧
    (let q := pixenc c ⟨r, g, x⟩
     q.green = p.green ∧ q.red = p.red ∧ q.flag.extractLsb' 6 2 = p.flag.extractLsb' 6 2 ∧
       q.flag.extractLsb' 0 4 = p.flag.extractLsb' 0 4)

/-- What `PIXENC` makes is a pixel record (R38, R59) with the corrected channels as its operands, and never the zero
record (R39). -/
def Obligations.PixencIsPixelRecord : Prop :=
  ∀ (c : Config) (raw : Rgb Byte),
    let p := pixenc c raw
    p.red = c.glutR[raw.r.toNat]'raw.r.isLt ∧
    p.green = c.glutG[raw.g.toNat]'raw.g.isLt ∧
    p.blue = c.glutB[raw.b.toNat]'raw.b.isLt ∧
    decodeRecord p.word =
      .ok (.pixrec (~~~(top2 p.blue)) (~~~(top2 p.green)) (~~~(top2 p.red)) p.blue p.green p.red) ∧
    p.word ≠ 0

/-- R61(a), (b): in every legal unit black is `FF 00 00 00` and white is `C0 FF FF FF`. -/
def Obligations.BlackAndWhite : Prop :=
  ∀ c : Config, c.Built →
    pixenc c ⟨0, 0, 0⟩ = ⟨0xFF, 0x00, 0x00, 0x00⟩ ∧ pixenc c ⟨255, 255, 255⟩ = ⟨0xC0, 0xFF, 0xFF, 0xFF⟩

/-- R40, R63, R64: a frame is one zero record, the pixel records in strip order, two zero records; `4*(N+3)` bytes. -/
def Obligations.FrameLayout : Prop :=
  ∀ (c : Config) (hues : List HueWord) (d : Byte),
    frameOf c hues d =
      [0, 0, 0, 0] ++
      (List.range c.n.val).flatMap (fun i => (pixenc c (rawColour c (hueAt hues i) d)).bytes) ++
      [0, 0, 0, 0] ++ [0, 0, 0, 0] ∧
    (frameOf c hues d).length = 4 * (c.n.val + 3)

/-- R65: in every legal unit the frame at dimming factor 0 is the lights-off frame, whatever the hues. -/
def Obligations.LightsOffFrame : Prop :=
  ∀ (c : Config) (hues : List HueWord), c.Built →
    frameOf c hues 0 =
      [0, 0, 0, 0] ++ (List.replicate c.n.val ([0xFF, 0x00, 0x00, 0x00] : List Byte)).flatten ++ List.replicate 8 0
end

