-- ==== Sys2Proof/Laws/Encoding.lean ====
section
/-! SUPPORT. The fields of a word as quotients and remainders, so that questions about encodings are linear arithmetic. -/

namespace Sys2Proof

theorem extract_toNat (w : Word) (lo len : Nat) : (w.extractLsb' lo len).toNat = w.toNat / 2 ^ lo % 2 ^ len := by
  rw [BitVec.extractLsb'_toNat, Nat.shiftRight_eq_div_pow]

theorem extract_eq_iff (w : Word) (lo len : Nat) (v : BitVec len) :
    w.extractLsb' lo len = v ↔ w.toNat / 2 ^ lo % 2 ^ len = v.toNat := by
  rw [← extract_toNat, BitVec.toNat_inj]

theorem opOf_toNat (w : Word) : (opOf w).toNat = w.toNat / 2 ^ 28 := by
  have := w.isLt
  rw [opOf, extract_toNat]
  omega

theorem top2_toNat (x : Byte) : (top2 x).toNat = x.toNat / 64 := by
  have := x.isLt
  rw [top2, BitVec.extractLsb'_toNat, Nat.shiftRight_eq_div_pow]
  omega

theorem not_top2_toNat (x : Byte) : (~~~(top2 x)).toNat = 3 - x.toNat / 64 := by
  rw [BitVec.toNat_not, top2_toNat]

theorem wordOfBytes_toNat (b0 b1 b2 b3 : Byte) :
    (wordOfBytes b0 b1 b2 b3).toNat = b0.toNat * 2 ^ 24 + b1.toNat * 2 ^ 16 + b2.toNat * 2 ^ 8 + b3.toNat := by
  have := b0.isLt
  have := b1.isLt
  have := b2.isLt
  have := b3.isLt
  rw [wordOfBytes, BitVec.toNat_ofNat, Nat.mod_eq_of_lt]
  omega

/-- The four bytes of a word determine it and are determined by it. -/
theorem wordOfBytes_inj {a0 a1 a2 a3 b0 b1 b2 b3 : Byte} :
    wordOfBytes a0 a1 a2 a3 = wordOfBytes b0 b1 b2 b3 ↔ a0 = b0 ∧ a1 = b1 ∧ a2 = b2 ∧ a3 = b3 := by
  simp only [← BitVec.toNat_inj, wordOfBytes_toNat]
  have := a1.isLt
  have := a2.isLt
  have := a3.isLt
  have := b1.isLt
  have := b2.isLt
  have := b3.isLt
  omega

theorem encode_sethue_toNat (idx : HueIndex) (hue : HueWord) :
    (encode (.sethue idx hue)).toNat = 0x10000000 + idx.toNat * 65536 + hue.toNat := by
  have := idx.isLt
  have := hue.isLt
  rw [encode, BitVec.toNat_ofNat, Nat.mod_eq_of_lt]
  omega

theorem encode_start_toNat (dim : Byte) : (encode (.start dim)).toNat = 0x20000000 + dim.toNat := by
  have := dim.isLt
  rw [encode, BitVec.toNat_ofNat, Nat.mod_eq_of_lt]
  omega

theorem encode_pixrec_toNat (b g r : BitVec 2) (blue green red : Byte) :
    (encode (.pixrec b g r blue green red)).toNat =
      (0xC0 + b.toNat * 16 + g.toNat * 4 + r.toNat) * 2 ^ 24 + blue.toNat * 2 ^ 16 + green.toNat * 2 ^ 8 + red.toNat := by
  have := b.isLt
  have := g.isLt
  have := r.isLt
  rw [encode, wordOfBytes_toNat, BitVec.toNat_ofNat, Nat.mod_eq_of_lt (by omega)]

end Sys2Proof
end

