-- ==== Sys2Proof/Laws/State.lean ====
section
/-! SUPPORT. For every primitive operation on the state, what it leaves in each field: a field it writes holds the
value its rule gives, every other field is as before. -/

namespace Sys2Proof.Machine

variable (s : State)

/-! ### `respond` -/

@[simp] theorem respond_cfg (r : Resp) (d : Word) : (respond r d s).cfg = s.cfg := rfl
@[simp] theorem respond_hue (r : Resp) (d : Word) : (respond r d s).hue = s.hue := rfl
@[simp] theorem respond_dlat (r : Resp) (d : Word) : (respond r d s).dlat = s.dlat := rfl
@[simp] theorem respond_busy (r : Resp) (d : Word) : (respond r d s).busy = s.busy := rfl
@[simp] theorem respond_err (r : Resp) (d : Word) : (respond r d s).err = s.err := rfl
@[simp] theorem respond_cause (r : Resp) (d : Word) : (respond r d s).cause = s.cause := rfl
@[simp] theorem respond_byteIdx (r : Resp) (d : Word) : (respond r d s).byteIdx = s.byteIdx := rfl
@[simp] theorem respond_bitCnt (r : Resp) (d : Word) : (respond r d s).bitCnt = s.bitCnt := rfl
@[simp] theorem respond_shreg (r : Resp) (d : Word) : (respond r d s).shreg = s.shreg := rfl
@[simp] theorem respond_sclk (r : Resp) (d : Word) : (respond r d s).sclk = s.sclk := rfl
@[simp] theorem respond_mosi (r : Resp) (d : Word) : (respond r d s).mosi = s.mosi := rfl
@[simp] theorem respond_trace (r : Resp) (d : Word) : (respond r d s).trace = s.trace := rfl
@[simp] theorem respond_earlier (r : Resp) (d : Word) : (respond r d s).earlier = s.earlier := rfl
@[simp] theorem respond_responses (r : Resp) (d : Word) : (respond r d s).responses = s.responses ++ [⟨r, d⟩] := rfl
@[simp] theorem respond_written (r : Resp) (d : Word) : (respond r d s).written = s.written := rfl
@[simp] theorem respond_blindStart (r : Resp) (d : Word) : (respond r d s).blindStart = s.blindStart := rfl
@[simp] theorem respond_agenda (r : Resp) (d : Word) : (respond r d s).agenda = s.agenda := rfl
@[simp] theorem respond_resets (r : Resp) (d : Word) : (respond r d s).resets = s.resets := rfl

/-! ### `raiseErr` -/

@[simp] theorem raiseErr_cfg (c : Cause) : (raiseErr c s).cfg = s.cfg := rfl
@[simp] theorem raiseErr_hue (c : Cause) : (raiseErr c s).hue = s.hue := rfl
@[simp] theorem raiseErr_dlat (c : Cause) : (raiseErr c s).dlat = s.dlat := rfl
@[simp] theorem raiseErr_busy (c : Cause) : (raiseErr c s).busy = s.busy := rfl
@[simp] theorem raiseErr_err (c : Cause) : (raiseErr c s).err = true := rfl
@[simp] theorem raiseErr_cause (c : Cause) : (raiseErr c s).cause = if s.err then s.cause else c := rfl
@[simp] theorem raiseErr_byteIdx (c : Cause) : (raiseErr c s).byteIdx = s.byteIdx := rfl
@[simp] theorem raiseErr_bitCnt (c : Cause) : (raiseErr c s).bitCnt = s.bitCnt := rfl
@[simp] theorem raiseErr_shreg (c : Cause) : (raiseErr c s).shreg = s.shreg := rfl
@[simp] theorem raiseErr_sclk (c : Cause) : (raiseErr c s).sclk = s.sclk := rfl
@[simp] theorem raiseErr_mosi (c : Cause) : (raiseErr c s).mosi = s.mosi := rfl
@[simp] theorem raiseErr_trace (c : Cause) : (raiseErr c s).trace = s.trace := rfl
@[simp] theorem raiseErr_earlier (c : Cause) : (raiseErr c s).earlier = s.earlier := rfl
@[simp] theorem raiseErr_responses (c : Cause) : (raiseErr c s).responses = s.responses ++ [⟨.refused, 0⟩] := rfl
@[simp] theorem raiseErr_written (c : Cause) : (raiseErr c s).written = s.written := rfl
@[simp] theorem raiseErr_blindStart (c : Cause) : (raiseErr c s).blindStart = s.blindStart := rfl
@[simp] theorem raiseErr_agenda (c : Cause) : (raiseErr c s).agenda = s.agenda := rfl
@[simp] theorem raiseErr_resets (c : Cause) : (raiseErr c s).resets = s.resets := rfl

/-! ### `clearErr` -/

@[simp] theorem clearErr_cfg : (clearErr s).cfg = s.cfg := rfl
@[simp] theorem clearErr_hue : (clearErr s).hue = s.hue := rfl
@[simp] theorem clearErr_dlat : (clearErr s).dlat = s.dlat := rfl
@[simp] theorem clearErr_busy : (clearErr s).busy = s.busy := rfl
@[simp] theorem clearErr_err : (clearErr s).err = false := rfl
@[simp] theorem clearErr_cause : (clearErr s).cause = .none := rfl
@[simp] theorem clearErr_byteIdx : (clearErr s).byteIdx = s.byteIdx := rfl
@[simp] theorem clearErr_bitCnt : (clearErr s).bitCnt = s.bitCnt := rfl
@[simp] theorem clearErr_shreg : (clearErr s).shreg = s.shreg := rfl
@[simp] theorem clearErr_sclk : (clearErr s).sclk = s.sclk := rfl
@[simp] theorem clearErr_mosi : (clearErr s).mosi = s.mosi := rfl
@[simp] theorem clearErr_trace : (clearErr s).trace = s.trace := rfl
@[simp] theorem clearErr_earlier : (clearErr s).earlier = s.earlier := rfl
@[simp] theorem clearErr_responses : (clearErr s).responses = s.responses := rfl
@[simp] theorem clearErr_written : (clearErr s).written = s.written := rfl
@[simp] theorem clearErr_blindStart : (clearErr s).blindStart = s.blindStart := rfl
@[simp] theorem clearErr_agenda : (clearErr s).agenda = s.agenda := rfl
@[simp] theorem clearErr_resets : (clearErr s).resets = s.resets := rfl

/-! ### `serLoad` -/

@[simp] theorem serLoad_cfg (b : Byte) : (serLoad b s).cfg = s.cfg := rfl
@[simp] theorem serLoad_hue (b : Byte) : (serLoad b s).hue = s.hue := rfl
@[simp] theorem serLoad_dlat (b : Byte) : (serLoad b s).dlat = s.dlat := rfl
@[simp] theorem serLoad_busy (b : Byte) : (serLoad b s).busy = s.busy := rfl
@[simp] theorem serLoad_err (b : Byte) : (serLoad b s).err = s.err := rfl
@[simp] theorem serLoad_cause (b : Byte) : (serLoad b s).cause = s.cause := rfl
@[simp] theorem serLoad_byteIdx (b : Byte) : (serLoad b s).byteIdx = s.byteIdx := rfl
@[simp] theorem serLoad_bitCnt (b : Byte) : (serLoad b s).bitCnt = 0 := rfl
@[simp] theorem serLoad_shreg (b : Byte) : (serLoad b s).shreg = b := rfl
@[simp] theorem serLoad_sclk (b : Byte) : (serLoad b s).sclk = s.sclk := rfl
@[simp] theorem serLoad_mosi (b : Byte) : (serLoad b s).mosi = b.getLsbD 7 := rfl
@[simp] theorem serLoad_trace (b : Byte) : (serLoad b s).trace = s.trace := rfl
@[simp] theorem serLoad_earlier (b : Byte) : (serLoad b s).earlier = s.earlier := rfl
@[simp] theorem serLoad_responses (b : Byte) : (serLoad b s).responses = s.responses := rfl
@[simp] theorem serLoad_written (b : Byte) : (serLoad b s).written = s.written := rfl
@[simp] theorem serLoad_blindStart (b : Byte) : (serLoad b s).blindStart = s.blindStart := rfl
@[simp] theorem serLoad_agenda (b : Byte) : (serLoad b s).agenda = s.agenda := rfl
@[simp] theorem serLoad_resets (b : Byte) : (serLoad b s).resets = s.resets := rfl

/-! ### `emit` -/

@[simp] theorem emit_cfg (b : Bool) : (emit b s).cfg = s.cfg := rfl
@[simp] theorem emit_hue (b : Bool) : (emit b s).hue = s.hue := rfl
@[simp] theorem emit_dlat (b : Bool) : (emit b s).dlat = s.dlat := rfl
@[simp] theorem emit_busy (b : Bool) : (emit b s).busy = s.busy := rfl
@[simp] theorem emit_err (b : Bool) : (emit b s).err = s.err := rfl
@[simp] theorem emit_cause (b : Bool) : (emit b s).cause = s.cause := rfl
@[simp] theorem emit_byteIdx (b : Bool) : (emit b s).byteIdx = s.byteIdx := rfl
@[simp] theorem emit_bitCnt (b : Bool) : (emit b s).bitCnt = s.bitCnt := rfl
@[simp] theorem emit_shreg (b : Bool) : (emit b s).shreg = s.shreg := rfl
@[simp] theorem emit_sclk (b : Bool) : (emit b s).sclk = s.sclk := rfl
@[simp] theorem emit_mosi (b : Bool) : (emit b s).mosi = s.mosi := rfl
@[simp] theorem emit_trace (b : Bool) : (emit b s).trace = s.trace ++ [b] := rfl
@[simp] theorem emit_earlier (b : Bool) : (emit b s).earlier = s.earlier := rfl
@[simp] theorem emit_responses (b : Bool) : (emit b s).responses = s.responses := rfl
@[simp] theorem emit_written (b : Bool) : (emit b s).written = s.written := rfl
@[simp] theorem emit_blindStart (b : Bool) : (emit b s).blindStart = s.blindStart := rfl
@[simp] theorem emit_agenda (b : Bool) : (emit b s).agenda = s.agenda := rfl
@[simp] theorem emit_resets (b : Bool) : (emit b s).resets = s.resets := rfl

/-! ### `writeHue` -/

@[simp] theorem writeHue_cfg (idx : HueIndex) (v : HueWord) : (writeHue idx v s).cfg = s.cfg := rfl
@[simp] theorem writeHue_hue (idx : HueIndex) (v : HueWord) : (writeHue idx v s).hue = s.hue.set idx.toNat v := rfl
@[simp] theorem writeHue_dlat (idx : HueIndex) (v : HueWord) : (writeHue idx v s).dlat = s.dlat := rfl
@[simp] theorem writeHue_busy (idx : HueIndex) (v : HueWord) : (writeHue idx v s).busy = s.busy := rfl
@[simp] theorem writeHue_err (idx : HueIndex) (v : HueWord) : (writeHue idx v s).err = s.err := rfl
@[simp] theorem writeHue_cause (idx : HueIndex) (v : HueWord) : (writeHue idx v s).cause = s.cause := rfl
@[simp] theorem writeHue_byteIdx (idx : HueIndex) (v : HueWord) : (writeHue idx v s).byteIdx = s.byteIdx := rfl
@[simp] theorem writeHue_bitCnt (idx : HueIndex) (v : HueWord) : (writeHue idx v s).bitCnt = s.bitCnt := rfl
@[simp] theorem writeHue_shreg (idx : HueIndex) (v : HueWord) : (writeHue idx v s).shreg = s.shreg := rfl
@[simp] theorem writeHue_sclk (idx : HueIndex) (v : HueWord) : (writeHue idx v s).sclk = s.sclk := rfl
@[simp] theorem writeHue_mosi (idx : HueIndex) (v : HueWord) : (writeHue idx v s).mosi = s.mosi := rfl
@[simp] theorem writeHue_trace (idx : HueIndex) (v : HueWord) : (writeHue idx v s).trace = s.trace := rfl
@[simp] theorem writeHue_earlier (idx : HueIndex) (v : HueWord) : (writeHue idx v s).earlier = s.earlier := rfl
@[simp] theorem writeHue_responses (idx : HueIndex) (v : HueWord) : (writeHue idx v s).responses = s.responses := rfl
@[simp] theorem writeHue_written (idx : HueIndex) (v : HueWord) : (writeHue idx v s).written = s.written.set idx.toNat true := rfl
@[simp] theorem writeHue_blindStart (idx : HueIndex) (v : HueWord) : (writeHue idx v s).blindStart = s.blindStart := rfl
@[simp] theorem writeHue_agenda (idx : HueIndex) (v : HueWord) : (writeHue idx v s).agenda = s.agenda := rfl
@[simp] theorem writeHue_resets (idx : HueIndex) (v : HueWord) : (writeHue idx v s).resets = s.resets := rfl

/-! ### `resetEvent` -/

@[simp] theorem resetEvent_cfg : (resetEvent s).cfg = s.cfg := rfl
@[simp] theorem resetEvent_hue : (resetEvent s).hue = (List.range s.cfg.n.val).map (freeHue s.resets) := rfl
@[simp] theorem resetEvent_dlat : (resetEvent s).dlat = 0 := rfl
@[simp] theorem resetEvent_busy : (resetEvent s).busy = false := rfl
@[simp] theorem resetEvent_err : (resetEvent s).err = false := rfl
@[simp] theorem resetEvent_cause : (resetEvent s).cause = .none := rfl
@[simp] theorem resetEvent_byteIdx : (resetEvent s).byteIdx = 0 := rfl
@[simp] theorem resetEvent_bitCnt : (resetEvent s).bitCnt = 0 := rfl
@[simp] theorem resetEvent_shreg : (resetEvent s).shreg = 0 := rfl
@[simp] theorem resetEvent_sclk : (resetEvent s).sclk = false := rfl
@[simp] theorem resetEvent_mosi : (resetEvent s).mosi = false := rfl
@[simp] theorem resetEvent_trace : (resetEvent s).trace = [] := rfl
@[simp] theorem resetEvent_earlier : (resetEvent s).earlier = s.earlier ++ s.trace := rfl
@[simp] theorem resetEvent_responses : (resetEvent s).responses = s.responses := rfl
@[simp] theorem resetEvent_written : (resetEvent s).written = List.replicate s.cfg.n.val false := rfl
@[simp] theorem resetEvent_blindStart : (resetEvent s).blindStart = s.blindStart := rfl
@[simp] theorem resetEvent_agenda : (resetEvent s).agenda = s.agenda := rfl
@[simp] theorem resetEvent_resets : (resetEvent s).resets = s.resets + 1 := rfl

/-! ### `popEvent` -/

@[simp] theorem popEvent_cfg : (popEvent s).cfg = s.cfg := rfl
@[simp] theorem popEvent_hue : (popEvent s).hue = s.hue := rfl
@[simp] theorem popEvent_dlat : (popEvent s).dlat = s.dlat := rfl
@[simp] theorem popEvent_busy : (popEvent s).busy = s.busy := rfl
@[simp] theorem popEvent_err : (popEvent s).err = s.err := rfl
@[simp] theorem popEvent_cause : (popEvent s).cause = s.cause := rfl
@[simp] theorem popEvent_byteIdx : (popEvent s).byteIdx = s.byteIdx := rfl
@[simp] theorem popEvent_bitCnt : (popEvent s).bitCnt = s.bitCnt := rfl
@[simp] theorem popEvent_shreg : (popEvent s).shreg = s.shreg := rfl
@[simp] theorem popEvent_sclk : (popEvent s).sclk = s.sclk := rfl
@[simp] theorem popEvent_mosi : (popEvent s).mosi = s.mosi := rfl
@[simp] theorem popEvent_trace : (popEvent s).trace = s.trace := rfl
@[simp] theorem popEvent_earlier : (popEvent s).earlier = s.earlier := rfl
@[simp] theorem popEvent_responses : (popEvent s).responses = s.responses := rfl
@[simp] theorem popEvent_written : (popEvent s).written = s.written := rfl
@[simp] theorem popEvent_blindStart : (popEvent s).blindStart = s.blindStart := rfl
@[simp] theorem popEvent_agenda : (popEvent s).agenda = s.agenda.tail := rfl
@[simp] theorem popEvent_resets : (popEvent s).resets = s.resets := rfl

end Sys2Proof.Machine
end

