-- ==== Sys2Proof/Laws/Ops.lean ====
section
/-! SUPPORT. One lemma per shared operation that says everything it can do, and which parts of the invariant it
keeps; later proofs cite these instead of unfolding the operations. -/

namespace Sys2Proof.Machine

variable {s t : State}

/-- The error entry as one record update (R84). -/
theorem raiseErr_spec (c : Cause) (s : State) :
    raiseErr c s = { s with
      err := true
      cause := if s.err then s.cause else c
      responses := s.responses ++ [⟨.refused, 0⟩] } := rfl

/-- The first byte of every frame is 0 (R64, R76). -/
theorem frameByte_zero (c : Config) (hues : List HueWord) (d : Byte) : frameByte c hues d 0 = 0 := rfl

/-- An accepted `START` as one record update (R76). -/
theorem beginFrame_spec (dim : Byte) (s : State) :
    beginFrame dim s = { s with
      dlat := dim
      busy := true
      byteIdx := 0
      shreg := 0
      bitCnt := 0
      mosi := false
      blindStart := s.blindStart || !allWritten s } := by
  simp [beginFrame, serLoad, State.frameByte, frameByte]

/-- `RISE` as one record update (R69). -/
theorem rise_spec (s : State) : rise s = { s with sclk := true, trace := s.trace ++ [s.mosi] } := rfl

/-- The second case of `FALL` as one record update (R70). -/
theorem fallByte_spec (s : State) :
    fallByte s = { s with
      sclk := false
      byteIdx := s.byteIdx + 1
      shreg := s.frameByte (s.byteIdx.toNat + 1)
      bitCnt := 0
      mosi := (s.frameByte (s.byteIdx.toNat + 1)).getLsbD 7 } := rfl

/-- `FALL` takes one of its three cases (R70). -/
theorem fall_cases (s : State) :
    (s.bitCnt.toNat < 7 ∧ fall s = fallBit s) ∨
    (s.bitCnt = 7 ∧ s.byteIdx.toNat + 1 < s.cfg.frameBytes ∧ fall s = fallByte s) ∨
    (s.bitCnt = 7 ∧ s.cfg.frameBytes ≤ s.byteIdx.toNat + 1 ∧ fall s = fallLast s) := by
  have hb : s.bitCnt.toNat < 8 := s.bitCnt.isLt
  have h7 : ¬ s.bitCnt.toNat < 7 → s.bitCnt = 7 := fun h => BitVec.eq_of_toNat_eq (by simp; omega)
  have hf : 12 ≤ s.cfg.frameBytes := by unfold Config.frameBytes; omega
  unfold fall
  split
  · exact .inl ⟨‹_›, rfl⟩
  · split
    · exact .inr (.inl ⟨h7 ‹_›, by omega, rfl⟩)
    · exact .inr (.inr ⟨h7 ‹_›, by omega, rfl⟩)

/-- One clock edge is nothing while idle, else `RISE` or one of the cases of `FALL` (R69, R70). -/
theorem engineEdge_cases (s : State) :
    (s.busy = false ∧ engineEdge s = s) ∨
    (s.busy = true ∧ s.sclk = false ∧ engineEdge s = rise s) ∨
    (s.busy = true ∧ s.sclk = true ∧ engineEdge s = fall s) := by
  unfold engineEdge
  cases s.busy <;> cases s.sclk <;> simp

/-- A clock edge writes none of the elements that the host writes, and nothing of the bookkeeping but the trace. -/
theorem engineEdge_keeps (s : State) :
    engineEdge s = { s with
      busy := (engineEdge s).busy
      byteIdx := (engineEdge s).byteIdx
      bitCnt := (engineEdge s).bitCnt
      shreg := (engineEdge s).shreg
      sclk := (engineEdge s).sclk
      mosi := (engineEdge s).mosi
      trace := (engineEdge s).trace } := by
  rcases engineEdge_cases s with ⟨-, h⟩ | ⟨-, -, h⟩ | ⟨-, -, h⟩
  · rw [h]
  · rw [h]; rfl
  · rw [h]
    rcases fall_cases s with ⟨-, h⟩ | ⟨-, -, h⟩ | ⟨-, -, h⟩ <;> rw [h] <;> rfl

/-- The same of any number of clock edges. -/
theorem engineRun_keeps (m : Nat) (s : State) :
    engineRun m s = { s with
      busy := (engineRun m s).busy
      byteIdx := (engineRun m s).byteIdx
      bitCnt := (engineRun m s).bitCnt
      shreg := (engineRun m s).shreg
      sclk := (engineRun m s).sclk
      mosi := (engineRun m s).mosi
      trace := (engineRun m s).trace } := by
  induction m generalizing s with
  | zero => rfl
  | succ m ih =>
    rw [engineRun, ih (engineEdge s), engineEdge_keeps s]

theorem engineRun_add (m k : Nat) (s : State) : engineRun (m + k) s = engineRun k (engineRun m s) := by
  induction m generalizing s with
  | zero => simp [engineRun]
  | succ m ih => rw [Nat.succ_add]; exact ih (engineEdge s)

/-- Whether a record is due, and which: everything `dueRecord` looks at (R40, R71). -/
theorem dueRecord_eq_some {w : Word} :
    dueRecord s = some w ↔
      (s.busy = true ∧ s.sclk = false ∧ s.bitCnt = 0 ∧ s.mosi = s.shreg.getLsbD 7 ∧
        s.byteIdx.toNat % 4 = 0 ∧ s.byteIdx.toNat + 3 < s.cfg.frameBytes) ∧
      wordOfBytes s.shreg (s.frameByte (s.byteIdx.toNat + 1)) (s.frameByte (s.byteIdx.toNat + 2))
        (s.frameByte (s.byteIdx.toNat + 3)) = w := by
  unfold dueRecord
  split <;> rename_i h
  · simp only [Bool.and_eq_true, Bool.not_eq_true', beq_iff_eq, decide_eq_true_eq] at h
    simp only [Option.some.injEq]
    tauto
  · simp only [Bool.and_eq_true, Bool.not_eq_true', beq_iff_eq, decide_eq_true_eq] at h
    simp only [reduceCtorEq, false_iff]
    tauto

/-- Sending a record is 64 clock edges, or a stop by name. -/
theorem sendRecord_cases (w : Word) (s : State) :
    (dueRecord s = some w ∧ sendRecord w s = .next (engineRun 64 s)) ∨
    (dueRecord s ≠ some w ∧ sendRecord w s = .fault .recordNotDue) := by
  unfold sendRecord
  split
  · exact .inl ⟨‹_›, rfl⟩
  · exact .inr ⟨‹_›, rfl⟩

end Sys2Proof.Machine
end

