-- ==== Sys2Proof/Laws/Step.lean ====
section
/-! SUPPORT. The inversion of `step`: everything a step can do, guards included. -/

namespace Sys2Proof.Machine

variable {s t : State}

/-- What a command does where it gives a next state (R74 to R78). -/
theorem exec_command_cases {i : Instr} (hi : i.space = .command) :
    (i = .nop ∧ exec i s = .next (respond .ok 0 s)) ∨
    (∃ idx hue, i = .sethue idx hue ∧
      ((s.busy = true ∧ exec i s = .next (raiseErr .busy s)) ∨
       (s.busy = false ∧ s.cfg.n.val ≤ idx.toNat ∧ exec i s = .next (raiseErr .range s)) ∨
       (s.busy = false ∧ idx.toNat < s.cfg.n.val ∧ exec i s = .next (respond .ok 0 (writeHue idx hue s))))) ∨
    (∃ dim, i = .start dim ∧
      ((s.busy = true ∧ exec i s = .next (raiseErr .busy s)) ∨
       (s.busy = false ∧ exec i s = .next (respond .ok 0 (beginFrame dim s))))) ∨
    (i = .status ∧ exec i s = .next (respond .ok (statusView s) s)) ∨
    (i = .clrerr ∧ exec i s = .next (respond .ok 0 (clearErr s))) := by
  cases i with
  | nop => exact .inl ⟨rfl, rfl⟩
  | sethue idx hue =>
    refine .inr (.inl ⟨idx, hue, rfl, ?_⟩)
    simp only [exec, execSethue, hueInRange]
    cases hb : s.busy
    · by_cases hr : idx.toNat < s.cfg.n.val
      · simp [hr]
      · simp [hr, Nat.le_of_not_lt hr]
    · simp
  | start dim =>
    refine .inr (.inr (.inl ⟨dim, rfl, ?_⟩))
    simp only [exec, execStart]
    cases s.busy <;> simp
  | status => exact .inr (.inr (.inr (.inl ⟨rfl, rfl⟩)))
  | clrerr => exact .inr (.inr (.inr (.inr ⟨rfl, rfl⟩)))
  | zerorec => cases hi
  | pixrec => cases hi

/-- A wire record is sent or stops by name. -/
theorem exec_record {i : Instr} (hi : i.space = .wire) : exec i s = sendRecord (encode i) s := by
  cases i <;> first | rfl | cases hi

/-- A record decodes only to an instruction of the wire. -/
theorem decodeRecord_space {w : Word} {i : Instr} (h : decodeRecord w = .ok i) : i.space = .wire := by
  unfold decodeRecord at h
  split at h
  · rw [← Except.ok.inj h]; rfl
  · split at h
    · split at h
      · rw [← Except.ok.inj h]; rfl
      · cases h
    · cases h

/-- A command word decodes only to a command. -/
theorem decodeCommand_space {w : Word} {i : Instr} (h : decodeCommand w = .ok i) : i.space = .command := by
  unfold decodeCommand at h
  split at h <;> (try split at h) <;>
    first
      | (rw [← Except.ok.inj h]; rfl)
      | cases h

/-- Everything a step that gives a next state can do. Name the last equation where you take the cases apart and
rewrite with it: 64 edges are better not unfolded. -/
theorem step_cases (h : step s = .next t) :
    (s.agenda = [] ∧ t = engineEdge s) ∨
    (∃ rest, s.agenda = .edge :: rest ∧ t = engineEdge (popEvent s)) ∨
    (∃ rest, s.agenda = .reset :: rest ∧ t = resetEvent (popEvent s)) ∨
    (∃ w rest i, s.agenda = .command w :: rest ∧ decodeCommand w = .ok i ∧ exec i (popEvent s) = .next t) ∨
    (∃ w rest e, s.agenda = .command w :: rest ∧ decodeCommand w = .error e ∧
      t = raiseErr .illegal (popEvent s)) ∨
    (∃ w rest i, s.agenda = .record w :: rest ∧ decodeRecord w = .ok i ∧ dueRecord (popEvent s) = some (encode i) ∧
      t = engineRun 64 (popEvent s)) := by
  unfold step at h
  split at h
  · exact .inl ⟨‹_›, (Host.Outcome.next.inj h).symm⟩
  · exact .inr (.inl ⟨_, ‹_›, (Host.Outcome.next.inj h).symm⟩)
  · exact .inr (.inr (.inl ⟨_, ‹_›, (Host.Outcome.next.inj h).symm⟩))
  · rename_i w rest hs
    split at h
    · exact .inr (.inr (.inr (.inl ⟨w, rest, _, hs, ‹_›, h⟩)))
    · exact .inr (.inr (.inr (.inr (.inl ⟨w, rest, _, hs, ‹_›, (Host.Outcome.next.inj h).symm⟩))))
  · rename_i w rest hs
    split at h
    · rename_i i hd
      rw [exec_record (decodeRecord_space hd)] at h
      rcases sendRecord_cases (encode i) (popEvent s) with ⟨hdue, hs'⟩ | ⟨-, hs'⟩
      · rw [hs'] at h
        exact .inr (.inr (.inr (.inr (.inr ⟨w, rest, i, hs, hd, hdue, (Host.Outcome.next.inj h).symm⟩))))
      · rw [hs'] at h; cases h
    · cases h

/-- A run whose first step gives a next state goes on from there. -/
theorem core_run_succ {n : Nat} (h : step s = .next t) :
    Host.Core.run Sys2Proof.core (n + 1) s = Host.Core.run Sys2Proof.core n t := by
  simp [Host.Core.run, Sys2Proof.core, h]

end Sys2Proof.Machine
end

