-- ==== Sys2Proof/Laws/Engine.lean ====
section
/-! SUPPORT. The engine over whole bytes, the bits of bytes in sending order, and which operations keep the invariant. -/

namespace Sys2Proof.Machine

variable {s : State}

/-! ### Bits in sending order -/

theorem bytesBits_append (xs ys : List Byte) : bytesBits (xs ++ ys) = bytesBits xs ++ bytesBits ys := by
  simp [bytesBits]

theorem bytesBits_length (bs : List Byte) : (bytesBits bs).length = 8 * bs.length := by
  induction bs with
  | nil => rfl
  | cons b bs ih =>
    have : (byteBits b).length = 8 := rfl
    simp only [bytesBits, List.flatMap_cons, List.length_append, List.length_cons] at *
    omega

theorem byteBits_get (b : Byte) {m : Nat} (h : m < 8) : (byteBits b)[m]? = some (b.getLsbD (7 - m)) := by
  interval_cases m <;> rfl

theorem frameOf_length (c : Config) (hues : List HueWord) (d : Byte) :
    (frameOf c hues d).length = c.frameBytes := by
  simp [frameOf]

theorem wordBytes_wordOfBytes (b0 b1 b2 b3 : Byte) : wordBytes (wordOfBytes b0 b1 b2 b3) = [b0, b1, b2, b3] := by
  have := b0.isLt
  have := b1.isLt
  have := b2.isLt
  have := b3.isLt
  simp only [wordBytes, List.cons.injEq, and_true]
  refine ⟨?_, ?_, ?_, ?_⟩ <;> apply BitVec.eq_of_toNat_eq <;> rw [extract_toNat, wordOfBytes_toNat] <;> omega

/-! ### One byte is sixteen edges -/

theorem engineRun_two (hb : s.busy = true) (hs : s.sclk = false) (hc : s.bitCnt.toNat < 7) :
    engineRun 2 s = { s with
      trace := s.trace ++ [s.mosi]
      shreg := s.shreg <<< 1
      bitCnt := s.bitCnt + 1
      mosi := s.shreg.getLsbD 6 } := by
  simp [engineRun, engineEdge, hb, hs, rise_spec, fall, hc, fallBit]

/-- The first fifteen edges of a byte: its eight bits have been sampled (R69, R70). -/
theorem engineRun_fifteen (hb : s.busy = true) (hs : s.sclk = false) (hc : s.bitCnt = 0)
    (hm : s.mosi = s.shreg.getLsbD 7) :
    engineRun 15 s = { s with
      sclk := true
      trace := s.trace ++ byteBits s.shreg
      shreg := s.shreg <<< 7
      bitCnt := 7
      mosi := s.shreg.getLsbD 0 } := by
  rw [show 15 = 2 + (2 + (2 + (2 + (2 + (2 + (2 + 1)))))) from rfl]
  rw [engineRun_add, engineRun_two, engineRun_add, engineRun_two, engineRun_add, engineRun_two, engineRun_add,
    engineRun_two, engineRun_add, engineRun_two, engineRun_add, engineRun_two, engineRun_add, engineRun_two]
  all_goals try (first | exact hb | exact hs | simp [hc]; done)
  simp only [engineRun, engineEdge, hb, hs, rise_spec, hc, hm, byteBits]
  simp [← BitVec.shiftLeft_add]

/-- A byte that is not the last of the frame (R70). -/
theorem engineRun_byte (hb : s.busy = true) (hs : s.sclk = false) (hc : s.bitCnt = 0)
    (hm : s.mosi = s.shreg.getLsbD 7) (hl : s.byteIdx.toNat + 1 < s.cfg.frameBytes) :
    engineRun 16 s = { s with
      trace := s.trace ++ byteBits s.shreg
      byteIdx := s.byteIdx + 1
      shreg := s.frameByte (s.byteIdx.toNat + 1)
      mosi := (s.frameByte (s.byteIdx.toNat + 1)).getLsbD 7 } := by
  rw [show 16 = 15 + 1 from rfl, engineRun_add, engineRun_fifteen hb hs hc hm]
  have : s.byteIdx.toNat < s.cfg.frameBytes - 1 := by omega
  simp only [engineRun, engineEdge, hb, fall, this, fallByte_spec]
  simp [hs, hc]
  constructor <;> rfl

/-- The last byte of the frame (R70). -/
theorem engineRun_lastByte (hb : s.busy = true) (hs : s.sclk = false) (hc : s.bitCnt = 0)
    (hm : s.mosi = s.shreg.getLsbD 7) (hl : s.cfg.frameBytes ≤ s.byteIdx.toNat + 1) :
    engineRun 16 s = { s with
      trace := s.trace ++ byteBits s.shreg
      busy := false
      byteIdx := 0
      shreg := 0
      mosi := false } := by
  rw [show 16 = 15 + 1 from rfl, engineRun_add, engineRun_fifteen hb hs hc hm]
  have : ¬ s.byteIdx.toNat < s.cfg.frameBytes - 1 := by omega
  simp only [engineRun, engineEdge, hb, fall, this, fallLast]
  simp [hs, hc]

/-! ### What keeps the invariant -/

theorem byteIdx_succ (h : s.byteIdx.toNat + 1 < s.cfg.frameBytes) :
    (s.byteIdx + 1).toNat = s.byteIdx.toNat + 1 := by
  have := s.cfg.n.isLt
  unfold Config.frameBytes at h
  rw [BitVec.toNat_add]
  simp
  omega

theorem bitCnt_succ (h : s.bitCnt.toNat < 7) : (s.bitCnt + 1).toNat = s.bitCnt.toNat + 1 := by
  rw [BitVec.toNat_add]
  simp
  omega

theorem inv_popEvent (h : Inv s) : Inv (popEvent s) := ⟨h.hueFile, h.idle, h.shift, h.cause⟩

theorem inv_respond (r : Resp) (d : Word) (h : Inv s) : Inv (respond r d s) :=
  ⟨h.hueFile, h.idle, h.shift, h.cause⟩

theorem inv_clearErr (h : Inv s) : Inv (clearErr s) := ⟨h.hueFile, h.idle, h.shift, by simp [CauseMatches]⟩

theorem inv_raiseErr {c : Cause} (hc : c ≠ .none) (h : Inv s) : Inv (raiseErr c s) := by
  refine ⟨h.hueFile, h.idle, h.shift, ?_⟩
  have := h.cause
  simp only [CauseMatches, raiseErr_spec] at *
  cases he : s.err <;> simp [he] at * <;> assumption

theorem inv_writeHue (idx : HueIndex) (v : HueWord) (hb : s.busy = false) (h : Inv s) : Inv (writeHue idx v s) :=
  ⟨⟨by simpa using h.hueFile.1, by simpa using h.hueFile.2⟩, h.idle,
    fun hb' => by simp [hb] at hb', h.cause⟩

theorem inv_beginFrame (dim : Byte) (h : Inv s) : Inv (beginFrame dim s) := by
  rw [beginFrame_spec]
  refine ⟨h.hueFile, fun hb => by simp at hb, fun _ => ⟨?_, ?_, by simp⟩, h.cause⟩
  · simp [Config.frameBytes]
  · simp [State.frameByte, frameByte]

theorem inv_engineEdge (h : Inv s) : Inv (engineEdge s) := by
  rcases engineEdge_cases s with ⟨-, he⟩ | ⟨hb, hs, he⟩ | ⟨hb, hs, he⟩
  · rwa [he]
  · rw [he, rise_spec]
    exact ⟨h.hueFile, fun h' => absurd hb (by simp at h'; simp [h']), fun _ => h.shift hb, h.cause⟩
  · rw [he]
    obtain ⟨h1, h2, h3⟩ := h.shift hb
    rcases fall_cases s with ⟨hc, he⟩ | ⟨hc, hn, he⟩ | ⟨hc, hn, he⟩ <;> rw [he]
    · refine ⟨h.hueFile, fun h' => absurd hb (by simp [fallBit] at h'; simp [h']), fun _ => ⟨h1, ?_, ?_⟩, h.cause⟩
      · simp only [fallBit]
        rw [h2, bitCnt_succ hc, BitVec.shiftLeft_add]
        rfl
      · simp [fallBit]
    · rw [fallByte_spec]
      refine ⟨h.hueFile, fun h' => absurd hb (by simp at h'; simp [h']), fun _ => ⟨?_, ?_, rfl⟩, h.cause⟩
      · simp only
        rw [byteIdx_succ hn]
        exact hn
      · simp only
        rw [byteIdx_succ hn]
        simp
        rfl
    · exact ⟨h.hueFile, fun _ => ⟨rfl, rfl, rfl, rfl, rfl⟩, fun h' => by simp [fallLast] at h', h.cause⟩

theorem inv_engineRun (m : Nat) (h : Inv s) : Inv (engineRun m s) := by
  induction m generalizing s with
  | zero => exact h
  | succ m ih => exact ih (inv_engineEdge h)

end Sys2Proof.Machine
end

