-- ==== Sys2Proof/Laws/PerInstr.lean ====
section
/-! SUPPORT. A statement about every instruction as syntax: its word has the fixed bits of its row of
spec/opcode_table.json. -/

namespace Sys2Proof.Laws.FixedBits

/-- The fixed bits of a row: the bits from `lo` up, `len` of them, have the value `v`. -/
structure Row where
  lo : Nat
  len : Nat
  v : Nat

/-- The entries `fixed` of the opcode table's rows. -/
def row : Instr → Row
  | .nop => ⟨0, 32, 0⟩
  | .sethue _ _ => ⟨28, 4, 1⟩
  | .start _ => ⟨8, 24, 2097152⟩
  | .status => ⟨0, 32, 805306368⟩
  | .clrerr => ⟨0, 32, 1073741824⟩
  | .zerorec => ⟨0, 32, 0⟩
  | .pixrec _ _ _ _ _ _ => ⟨30, 2, 3⟩

/-- The word of `i` has the fixed bits of its row. -/
def Statement (i : Instr) : Prop := (encode i).toNat / 2 ^ (row i).lo % 2 ^ (row i).len = (row i).v

theorem nop : Statement .nop := rfl

theorem sethue (idx : HueIndex) (hue : HueWord) : Statement (.sethue idx hue) := by
  have := idx.isLt
  have := hue.isLt
  simp only [Statement, row, encode_sethue_toNat]
  omega

theorem start (dim : Byte) : Statement (.start dim) := by
  have := dim.isLt
  simp only [Statement, row, encode_start_toNat]
  omega

theorem status : Statement .status := rfl

theorem clrerr : Statement .clrerr := rfl

theorem zerorec : Statement .zerorec := rfl

theorem pixrec (b g r : BitVec 2) (blue green red : Byte) : Statement (.pixrec b g r blue green red) := by
  have := b.isLt
  have := g.isLt
  have := r.isLt
  have := blue.isLt
  have := green.isLt
  have := red.isLt
  simp only [Statement, row, encode_pixrec_toNat]
  omega

end Sys2Proof.Laws.FixedBits
end

