-- ==== Sys2Proof/Tests/Slice0.lean ====
section
/-! SUPPORT. Tests with values from spec/95_test_vectors.md, and for every statement with hypotheses a witness that meets
them, at the boundary values of each clause. -/

open Sys2Proof Sys2Proof.Machine

namespace Sys2Proof.Tests

/-! ### Small states -/

/-- The default unit of the test vectors with `n` LEDs. -/
def unit (n : Fin 4097) : Config := { Config.scenario with n := n }

/-- The identity tables (spec/95_test_vectors.md section 2.4). -/
def identityTable : Table := Vector.ofFn fun i => BitVec.ofNat 8 i.val

/-- A unit of two LEDs with identity tables. -/
def identityUnit : Config :=
  { unit 2 with glutR := identityTable, glutG := identityTable, glutB := identityTable }

/-- An idle unit of two LEDs, the hues of program P3. -/
def idle2 : State := State.powerOn (unit 2) [0, 23040]

/-- The same unit in its frame at dimming factor 255, at bit `j` of byte `k`. -/
def inFrame (k j : Nat) (clk : Bool) : State :=
  { idle2 with
    dlat := 255
    busy := true
    byteIdx := BitVec.ofNat 15 k
    bitCnt := BitVec.ofNat 3 j
    shreg := frameByte (unit 2) [0, 23040] 255 k <<< (BitVec.ofNat 3 j).toNat
    sclk := clk
    mosi := (frameByte (unit 2) [0, 23040] 255 k <<< (BitVec.ofNat 3 j).toNat).getLsbD 7 }

/-- The state with one event scheduled. -/
def before (e : Event) (s : State) : State := { s with agenda := [e] }

/-- The next state has the property. -/
def answers (o : Host.Outcome State Fault Refusal) (p : State → Bool) : Bool :=
  match o with
  | .next t => p t
  | .fault _ => false
  | .refused _ => false

theorem inv_idle2 : Inv idle2 :=
  ⟨by unfold HueFileWf; decide, by unfold IdleClean; decide, by unfold ShiftHolds; decide, by unfold CauseMatches; decide⟩

theorem inv_inFrame {k : Nat} (j : Nat) (clk : Bool) (h : k < 20) : Inv (inFrame k j clk) := by
  refine ⟨inv_idle2.hueFile, fun hb => by simp [inFrame] at hb, fun _ => ⟨?_, ?_, rfl⟩, inv_idle2.cause⟩
  · change (BitVec.ofNat 15 k).toNat < 20
    rw [BitVec.toNat_ofNat]
    omega
  · change _ = frameByte (unit 2) [0, 23040] 255 (BitVec.ofNat 15 k).toNat <<< (BitVec.ofNat 3 j).toNat
    rw [BitVec.toNat_ofNat, Nat.mod_eq_of_lt (by omega)]
    rfl

theorem inv_before (e : Event) {s : State} (h : Inv s) : Inv (before e s) := ⟨h.hueFile, h.idle, h.shift, h.cause⟩

theorem atRecord_inFrame {r : Nat} (h : r < 5) : atRecord (inFrame (4 * r) 0 false) r := by
  refine ⟨inv_inFrame 0 false (by omega), rfl, rfl, rfl, ?_⟩
  change (BitVec.ofNat 15 (4 * r)).toNat = 4 * r
  rw [BitVec.toNat_ofNat]
  omega

/-! ### Well-formedness: one ill-formed record for each check -/

theorem test_pixrec_blue_field_refused : (Instr.pixrec 0 3 3 0x89 0x38 0x0C).wellFormed = false := by decide
theorem test_pixrec_green_field_refused : (Instr.pixrec 1 2 3 0x89 0x38 0x0C).wellFormed = false := by decide
theorem test_pixrec_red_field_refused : (Instr.pixrec 1 3 0 0x89 0x38 0x0C).wellFormed = false := by decide
theorem test_pixrec_wellFormed : (Instr.pixrec 1 3 3 0x89 0x38 0x0C).wellFormed = true := by decide

/-! ### Decoding: words written out bit by bit from R34, R35, R38, R39 -/

theorem test_decode_nop : decodeCommand 0b00000000000000000000000000000000#32 = .ok .nop := rfl
theorem test_decode_sethue :
    decodeCommand 0b00010000010010110101101000000001#32 = .ok (.sethue 75 0x5A01) := rfl
theorem test_decode_start : decodeCommand 0b00100000000000000000000010000001#32 = .ok (.start 129) := rfl
theorem test_decode_status : decodeCommand 0b00110000000000000000000000000000#32 = .ok .status := rfl
theorem test_decode_clrerr : decodeCommand 0b01000000000000000000000000000000#32 = .ok .clrerr := rfl
theorem test_decode_zerorec : decodeRecord 0b00000000000000000000000000000000#32 = .ok .zerorec := rfl
theorem test_decode_pixrec :
    decodeRecord 0b11011111100010010011100000001100#32 = .ok (.pixrec 1 3 3 0x89 0x38 0x0C) := by decide +kernel

theorem test_encode_words :
    encode (.sethue 1 23040) = 0x10015A00#32 ∧ encode (.start 200) = 0x200000C8#32 ∧
    encode (.pixrec 0 0 0 0xFF 0xFF 0xFF) = 0xC0FFFFFF#32 := by decide +kernel

theorem test_illegal_words :
    decodeCommand 0x00000001#32 = .error .mustBeZero ∧ decodeCommand 0x30000001#32 = .error .mustBeZero ∧
    decodeCommand 0x44000000#32 = .error .mustBeZero ∧ decodeCommand 0xFC0000FF#32 = .error .reservedOp ∧
    decodeRecord 0x000000FF#32 = .error .notARecord := by decide +kernel

theorem test_decodeTableWord :
    decodeTableWord 32 0x00000000 = some .nop ∧ decodeTableWord 32 0x1FFFFFFF = some (.sethue 4095 65535) ∧
    decodeTableWord 32 0xFF000000 = some (.pixrec 3 3 3 0 0 0) ∧ decodeTableWord 32 0xC0000000 = none := by decide +kernel

/-! ### One step of each instruction -/

theorem test_nop_in_frame :
    answers (exec .nop (inFrame 4 5 true)) (fun t => t.busy && t.responses == [⟨.ok, 0⟩]) = true := by decide +kernel

theorem test_sethue_writes :
    answers (exec (.sethue 1 15360) idle2) (fun t => t.hue == [0, 15360] && !t.err) = true := by decide +kernel
theorem test_sethue_range :
    answers (exec (.sethue 2 0) idle2)
      (fun t => t.hue == [0, 23040] && t.err && t.cause == .range && t.responses == [⟨.refused, 0⟩]) = true := by
  decide +kernel

theorem test_start :
    answers (exec (.start 255) idle2) (fun t => t.busy && t.dlat == 255 && t.frame ==
      [0, 0, 0, 0, 0xFC, 0, 0, 0xFF, 0xC3, 0xFF, 0xFF, 0, 0, 0, 0, 0, 0, 0, 0, 0]) = true := by decide +kernel
theorem test_start_busy :
    answers (exec (.start 0) (inFrame 4 5 true))
      (fun t => t.dlat == 255 && t.err && t.cause == .busy && statusView t == 0x0B) = true := by decide +kernel

theorem test_status_range :
    answers (exec .status (raiseErr .range idle2)) (fun t => t.responses == [⟨.refused, 0⟩, ⟨.ok, 0x0000000E⟩]) = true := by
  decide +kernel
theorem test_status_illegal_in_frame :
    answers (exec .status (raiseErr .illegal (inFrame 3 0 false)))
      (fun t => t.responses == [⟨.refused, 0⟩, ⟨.ok, 0x00000007⟩]) = true := by decide +kernel

theorem test_clrerr_in_frame :
    answers (exec .clrerr (raiseErr .busy (inFrame 3 0 false))) (fun t => statusView t == 0x01 && t.cause == .none) = true := by
  decide +kernel

theorem test_zerorec :
    answers (exec .zerorec (inFrame 0 0 false))
      (fun t => t.byteIdx == 4 && t.shreg == 0xFC && t.mosi && t.trace == List.replicate 32 false) = true := by
  decide +kernel
theorem test_zerorec_ends_frame :
    answers (exec .zerorec (inFrame 16 0 false)) (fun t => !t.busy && t.byteIdx == 0 && !t.sclk) = true := by
  decide +kernel

theorem test_pixrec :
    answers (exec (.pixrec 3 3 0 0 0 0xFF) (inFrame 4 0 false))
      (fun t => t.byteIdx == 8 && t.trace == bytesBits [0xFC, 0, 0, 0xFF]) = true := by decide +kernel
theorem test_pixrec_not_due : exec (.pixrec 3 0 3 0 0xFF 0) (inFrame 4 0 false) = .fault .recordNotDue := by
  rw [exec_record rfl, sendRecord, if_neg (by decide +kernel)]

theorem test_step_runs_placed_words :
    answers (step (State.reset.withFetchWord 32 0x104B1234)) (fun t => hueAt t.hue 75 == 0x1234) = true ∧
    answers (step (State.reset.withFetchWord 32 0xDF89380C))
      (fun t => t.trace == bytesBits [0xDF, 0x89, 0x38, 0x0C]) = true := by decide +kernel

/-! ### The engine (section 7 of the vectors, here in the first frame of P3) -/

theorem test_rise : answers (step (before .edge (inFrame 4 0 false))) (fun t => t.sclk && t.trace == [true]) = true := by
  decide +kernel
theorem test_fall_bit :
    answers (step (before .edge (inFrame 4 1 true)))
      (fun t => !t.sclk && t.mosi && t.bitCnt == 2 && t.shreg == 0xF0 && t.trace == []) = true := by decide +kernel
theorem test_fall_byte :
    answers (step (before .edge (inFrame 3 7 true)))
      (fun t => t.byteIdx == 4 && t.bitCnt == 0 && t.shreg == 0xFC && t.mosi) = true := by decide +kernel
theorem test_fall_last :
    answers (step (before .edge (inFrame 19 7 true)))
      (fun t => !t.busy && t.byteIdx == 0 && t.bitCnt == 0 && t.shreg == 0 && !t.sclk && !t.mosi) = true := by
  decide +kernel
theorem test_reset_in_frame :
    answers (step (before .reset (raiseErr .busy (inFrame 4 3 true))))
      (fun t => !t.busy && !t.err && !t.sclk && t.dlat == 0 && t.hue.length == 2 && statusView t == 0) = true := by
  decide +kernel

/-! ### The data path (sections 2 to 6 of the vectors) -/

theorem test_gamma22_samples :
    ([14, 15, 24, 25, 128, 135, 136, 186, 187, 200, 223, 224, 254].map fun i => (gammaEntry 11 5 i).toNat) =
      [0, 1, 1, 2, 56, 63, 64, 127, 129, 149, 190, 192, 253] := by decide +kernel
theorem test_gamma_samples :
    gammaEntry 14 5 128 = 37 ∧ gammaEntry 2 1 128 = 64 ∧ gammaEntry 1 2 64 = 128 ∧ gammaEntry 1 1 77 = 77 := by
  decide +kernel

/-- The exchange of the green and blue exponents (section 2.5). -/
def swapped (sw : Bool) : Config := glutBuild { unit 1 with swapGb := sw } ⟨1, 1⟩ ⟨11, 5⟩ ⟨14, 5⟩

theorem test_swap :
    pixenc (swapped true) ⟨128, 128, 128⟩ = ⟨0xFD, 0x38, 0x25, 0x80⟩ ∧
    pixenc (swapped false) ⟨128, 128, 128⟩ = ⟨0xFD, 0x25, 0x38, 0x80⟩ := by decide +kernel

theorem test_hsv2rgb :
    hsv2rgb 12345 200 100 = ⟨102540000, 195840000, 42240000⟩ ∧
    hsv2rgb 65535 255 255 = ⟨0, 499392000, 266277375⟩ ∧
    hsv2rgb 42240 255 255 = ⟨499392000, 0, 249696000⟩ := by decide +kernel
theorem test_scale8 :
    scale8 499391999 255 = 254 ∧ scale8 249696000 127 = 63 ∧ scale8 1958400 255 = 1 ∧ scale8 1958399 255 = 0 := by
  decide +kernel
theorem test_pixenc :
    pixenc (unit 1) ⟨64, 128, 192⟩ = ⟨0xDF, 0x89, 0x38, 0x0C⟩ ∧
    pixenc (unit 1) ⟨186, 187, 255⟩ = ⟨0xC6, 0xFF, 0x81, 0x7F⟩ ∧
    pixenc identityUnit ⟨64, 128, 192⟩ = ⟨0xC6, 0xC0, 0x80, 0x40⟩ := by decide +kernel
theorem test_frame_half_saturation :
    frameOf { unit 2 with sat := 128 } [3840, 30000] 255 =
      [0, 0, 0, 0, 0xF4, 0x37, 0x87, 0xFF, 0xCB, 0xFF, 0x43, 0x37, 0, 0, 0, 0, 0, 0, 0, 0] := by decide +kernel
theorem test_frame_no_leds : frameOf (unit 0) [] 255 = List.replicate 12 0 := by decide +kernel

theorem test_assemble :
    assemble [.sethuedeg 0 30 0, .sethuedeg 1 3595 1, .frame 0 128, .off] =
      some [0x10000F00#32, 0x1001B3C0#32, 0x30000000#32, 0x20000080#32, 0x20000000#32] := by decide +kernel

/-! ### Witnesses -/

theorem witness_DecodeOfEncode :
    (Instr.pixrec 0 0 0 255 255 255).wellFormed = true ∧ (Instr.pixrec 3 3 3 0 0 0).wellFormed = true ∧
    (Instr.sethue 4095 65535).wellFormed = true := by decide

theorem witness_EncodeOfDecode :
    decodeIn .command 0x20000080#32 = .ok (.start 128) ∧ decodeIn .wire 0xFF000000#32 = .ok (.pixrec 3 3 3 0 0 0) := by
  decide +kernel

theorem witness_CommandCodeTable :
    (0x1FFFFFFF#32).toNat / 2 ^ 28 = 1 ∧
    ((0x200000FF#32).toNat / 2 ^ 28 = 2 ∧ (0x200000FF#32).toNat / 2 ^ 8 % 2 ^ 20 = 0) ∧
    (let w := 0x20000100#32
     w ≠ 0x00000000#32 ∧ w.toNat / 2 ^ 28 ≠ 1 ∧ ¬ (w.toNat / 2 ^ 28 = 2 ∧ w.toNat / 2 ^ 8 % 2 ^ 20 = 0) ∧
       w ≠ 0x30000000#32 ∧ w ≠ 0x40000000#32) ∧
    (let w := 0x00000001#32
     w ≠ 0x00000000#32 ∧ w.toNat / 2 ^ 28 ≠ 1 ∧ ¬ (w.toNat / 2 ^ 28 = 2 ∧ w.toNat / 2 ^ 8 % 2 ^ 20 = 0) ∧
       w ≠ 0x30000000#32 ∧ w ≠ 0x40000000#32) := by decide +kernel

theorem witness_IllegalWordRefused :
    (∃ e, decodeCommand 0x50000000#32 = .error e) ∧ (∃ e, decodeCommand 0x0FFFFFFF#32 = .error e) ∧
    (∃ e, decodeCommand 0x30000001#32 = .error e) ∧ (∃ e, decodeCommand 0x48000000#32 = .error e) ∧
    (∃ e, decodeCommand 0x20000100#32 = .error e) ∧
    (before (.command 0x50000000#32) idle2).agenda = [.command 0x50000000#32] :=
  ⟨⟨_, rfl⟩, ⟨_, rfl⟩, ⟨_, rfl⟩, ⟨_, rfl⟩, ⟨_, rfl⟩, rfl⟩

theorem witness_PixelRecordUnique : decodeRecord 0xC6C08040#32 = .ok (.pixrec 0 1 2 0xC0 0x80 0x40) := by decide +kernel

theorem witness_PseudoInstructions : 5119 < 512 * 10 ^ 1 ∧ 0 < 512 * 10 ^ 0 := by decide

theorem witness_StepRunsDecoded :
    ((before (.command 0x10010007#32) idle2).agenda = [.command 0x10010007#32] ∧
      decodeCommand 0x10010007#32 = .ok (.sethue 1 7)) ∧
    ((before (.record 0) (inFrame 0 0 false)).agenda = [.record 0] ∧ decodeRecord 0 = .ok .zerorec) :=
  ⟨⟨rfl, rfl⟩, rfl, rfl⟩

theorem witness_StopsOnlyAtRecords :
    step (before (.record 0x3F000000#32) idle2) = .refused .notARecord ∧
    step (before (.record 0) idle2) = .fault .recordNotDue ∧ dueRecord (before (.record 0) idle2) ≠ some 0 := by
  exact ⟨rfl, rfl, by decide⟩

theorem witness_op_classes :
    ((0x00000001#32).toNat / 2 ^ 28 = 0 ∧ 0x00000001#32 ≠ 0) ∧
    ((0x30000001#32).toNat / 2 ^ 28 = 3 ∧ 0x30000001#32 ≠ 0x30000000#32) ∧
    ((0x4FFFFFFF#32).toNat / 2 ^ 28 = 4 ∧ 0x4FFFFFFF#32 ≠ 0x40000000#32) := by decide

theorem witness_SethueEffect :
    (inFrame 4 5 true).busy = true ∧
    (idle2.busy = false ∧ idle2.cfg.n.val ≤ (2 : HueIndex).toNat) ∧
    (idle2.busy = false ∧ (1 : HueIndex).toNat < idle2.cfg.n.val ∧ idle2.hue.length = idle2.cfg.n.val) := by decide

theorem witness_StartEffect :
    (inFrame 4 5 true).busy = true ∧ idle2.busy = false ∧ Inv idle2 ∧ ∃ t, exec (.start 255) idle2 = .next t :=
  ⟨rfl, rfl, inv_idle2, _, rfl⟩

theorem witness_ErrorEntry :
    Cause.range ≠ .none ∧ idle2.err = false ∧ (raiseErr .busy idle2).err = true := by decide

theorem witness_ErrorPriority :
    (let s := before (.command 0x50000000#32) idle2
     s.agenda = [.command 0x50000000#32] ∧ portError s 0x50000000#32 = some .illegal) ∧
    (let s := before (.command 0x10090001#32) (inFrame 4 5 true)
     s.agenda = [.command 0x10090001#32] ∧ portError s 0x10090001#32 = some .busy) ∧
    (let s := before (.command 0x10020001#32) idle2
     s.agenda = [.command 0x10020001#32] ∧ portError s 0x10020001#32 = some .range) ∧
    (let s := before (.command 0x10010001#32) idle2
     s.agenda = [.command 0x10010001#32] ∧ portError s 0x10010001#32 = none) ∧
    (∃ t, step (before .edge (raiseErr .busy (inFrame 4 5 true))) = .next t) ∧
    (∀ w, (before .edge (raiseErr .busy (inFrame 4 5 true))).agenda.head? ≠ some (.command w)) :=
  ⟨by decide +kernel, by decide +kernel, by decide +kernel, by decide +kernel, ⟨_, rfl⟩, fun w h => by
    simp [before] at h⟩

theorem witness_RefusedChangesNothingElse :
    exec (.sethue 2 0) idle2 = .next (raiseErr .range idle2) ∧
    (raiseErr .range idle2).responses = idle2.responses ++ [⟨.refused, 0⟩] := ⟨rfl, rfl⟩

theorem witness_ErrBlocksNothing : ∃ t, step (before (.command 0x30000000#32) (raiseErr .range idle2)) = .next t :=
  ⟨_, rfl⟩

theorem witness_WrittenMarks :
    HueFileWf idle2 ∧ idle2.busy = false ∧ (1 : HueIndex).toNat < idle2.cfg.n.val ∧
    (∃ t, exec (.sethue 1 7) idle2 = .next t) ∧ (∃ t, exec (.start 0) idle2 = .next t) ∧
    (before .reset (writeHue 1 7 idle2)).agenda = [.reset] ∧ (before .reset (writeHue 1 7 idle2)).written = [false, true] :=
  ⟨inv_idle2.hueFile, rfl, by decide, ⟨_, rfl⟩, ⟨_, rfl⟩, rfl, by decide⟩

theorem witness_StatusLegalValues : Inv idle2 ∧ Inv (raiseErr .illegal (inFrame 19 7 true)) :=
  ⟨inv_idle2, inv_raiseErr (by decide) (inv_inFrame 7 true (by decide))⟩

theorem witness_ResetEvent : (before .reset (inFrame 4 3 true)).agenda = [.reset] := rfl

theorem witness_PowerOnInv : ([0, 23040] : List HueWord).length = (unit 2).n.val := rfl

theorem witness_StepKeepsInv :
    Inv (before .edge (inFrame 19 7 true)) ∧ ∃ t, step (before .edge (inFrame 19 7 true)) = .next t :=
  ⟨inv_before _ (inv_inFrame 7 true (by decide)), _, rfl⟩

theorem witness_FrameFrozenWhileBusy :
    (before .edge (inFrame 4 0 false)).busy = true ∧
    (before .edge (inFrame 4 0 false)).agenda.head? ≠ some .reset ∧
    ∃ t, step (before .edge (inFrame 4 0 false)) = .next t := ⟨rfl, by decide, _, rfl⟩

theorem witness_ConfigurationConstant : ∃ t, step (before .reset idle2) = .next t := ⟨_, rfl⟩

theorem witness_SclkHalfUnused :
    (∃ t, step idle2 = .next t) ∧ (∃ f, step (before (.record 0) idle2) = .fault f) ∧
    ∃ r, step (before (.record 1) idle2) = .refused r := ⟨⟨_, rfl⟩, ⟨_, rfl⟩, _, rfl⟩

theorem witness_HueOnlyBySethue :
    ∃ t, step (before (.command 0x10010007#32) idle2) = .next t ∧
      hueAt t.hue 1 ≠ hueAt (before (.command 0x10010007#32) idle2).hue 1 := ⟨_, rfl, by decide⟩

theorem witness_BusyChanges :
    (Inv (before (.command 0x20000000#32) idle2) ∧ (before (.command 0x20000000#32) idle2).busy = false ∧
      ∃ t, step (before (.command 0x20000000#32) idle2) = .next t ∧ t.busy = true) ∧
    (Inv (before .edge (inFrame 19 7 true)) ∧ (before .edge (inFrame 19 7 true)).busy = true ∧
      ∃ t, step (before .edge (inFrame 19 7 true)) = .next t ∧ t.busy = false) :=
  ⟨⟨inv_before _ inv_idle2, rfl, _, rfl, rfl⟩, inv_before _ (inv_inFrame 7 true (by decide)), rfl, _, rfl,
    by decide +kernel⟩

theorem witness_PositionAdvances :
    (Inv idle2 ∧ idle2.busy = false) ∧
    (Inv (inFrame 4 0 false) ∧ (inFrame 4 0 false).busy = true ∧ (inFrame 4 0 false).sclk = false) ∧
    (Inv (inFrame 19 6 true) ∧ (inFrame 19 6 true).busy = true ∧ (inFrame 19 6 true).sclk = true ∧
      pos (inFrame 19 6 true) + 1 < (inFrame 19 6 true).cfg.frameBits) ∧
    (Inv (inFrame 19 7 true) ∧ (inFrame 19 7 true).busy = true ∧ (inFrame 19 7 true).sclk = true ∧
      pos (inFrame 19 7 true) + 1 = (inFrame 19 7 true).cfg.frameBits) :=
  ⟨⟨inv_idle2, rfl⟩, ⟨inv_inFrame 0 false (by decide), rfl, rfl⟩,
    ⟨inv_inFrame 6 true (by decide), rfl, rfl, by decide⟩, inv_inFrame 7 true (by decide), rfl, rfl, by decide⟩

theorem witness_TraceIsMosiAtRises :
    (∃ t, step (before .edge (inFrame 4 0 false)) = .next t ∧ (inFrame 4 0 false).sclk = false ∧ t.sclk = true) ∧
    (∃ t, step (before .edge (inFrame 4 0 true)) = .next t ∧ t.sclk = false) ∧
    (∃ t, step (before (.command 0) (inFrame 4 0 true)) = .next t) ∧
    ∃ t, step (before .reset (inFrame 4 0 true)) = .next t :=
  ⟨⟨_, rfl, rfl, rfl⟩, ⟨_, rfl, by decide +kernel⟩, ⟨_, rfl⟩, _, rfl⟩

theorem witness_IdleEngine :
    Inv (before .edge idle2) ∧ (before .edge idle2).busy = false ∧ (before .edge idle2).agenda = [.edge] ∧
    idle2.agenda = [] ∧ ∃ t, step idle2 = .next t := ⟨inv_before _ inv_idle2, rfl, rfl, rfl, _, rfl⟩

theorem witness_RiseEffect :
    (before .edge (inFrame 4 7 false)).busy = true ∧ (before .edge (inFrame 4 7 false)).sclk = false ∧
    (before .edge (inFrame 4 7 false)).agenda = [.edge] ∧ Inv (before .edge (inFrame 4 7 false)) :=
  ⟨rfl, rfl, rfl, inv_before _ (inv_inFrame 7 false (by decide))⟩

theorem witness_FallEffect :
    (∀ k j, (before .edge (inFrame k j true)).busy = true ∧ (before .edge (inFrame k j true)).sclk = true ∧
      (before .edge (inFrame k j true)).agenda = [.edge]) ∧
    (inFrame 4 6 true).bitCnt.toNat < 7 ∧
    ((inFrame 18 7 true).bitCnt = 7 ∧
      (inFrame 18 7 true).byteIdx.toNat < 4 * ((inFrame 18 7 true).cfg.n.val + 3) - 1) ∧
    ((inFrame 19 7 true).bitCnt = 7 ∧
      ¬ (inFrame 19 7 true).byteIdx.toNat < 4 * ((inFrame 19 7 true).cfg.n.val + 3) - 1) :=
  ⟨fun _ _ => ⟨rfl, rfl, rfl⟩, by decide⟩

theorem witness_FrameOnTheWire :
    Inv idle2 ∧ idle2.busy = false ∧ (∃ t, exec (.start 255) idle2 = .next t) ∧
    0 < 2 * idle2.cfg.frameBits ∧ 319 < 2 * idle2.cfg.frameBits := ⟨inv_idle2, rfl, ⟨_, rfl⟩, by decide⟩

theorem witness_FrameOnTheWireAnySchedule :
    (let es : List Event := [.edge, .command 0x10003C00#32, .edge]
     hostAndEngine es = true ∧ edgeCount es ≤ 2 * idle2.cfg.frameBits ∧ edgeCount es < 2 * idle2.cfg.frameBits) ∧
    (let es : List Event := List.replicate 320 .edge ++ [.command 0x30000000#32]
     hostAndEngine es = true ∧ edgeCount es ≤ 2 * idle2.cfg.frameBits) := by decide +kernel

theorem witness_SampleNumbering : 0 < (unit 0).frameBits ∧ 95 < (unit 0).frameBits := by decide

theorem witness_ZerorecCompletes :
    atRecord (inFrame 0 0 false) 0 ∧ atRecord (inFrame 12 0 false) 3 ∧ atRecord (inFrame 16 0 false) 4 ∧
    (3 = (unit 2).n.val + 1 ∧ 4 = (unit 2).n.val + 2) :=
  ⟨atRecord_inFrame (r := 0) (by decide), atRecord_inFrame (r := 3) (by decide),
    atRecord_inFrame (r := 4) (by decide), by decide⟩

theorem witness_PixrecCompletes :
    (atRecord (inFrame 4 0 false) (0 + 1) ∧ 0 < (inFrame 4 0 false).cfg.n.val ∧
      (⟨0xFC, 0, 0, 0xFF⟩ : Pixel) = pixelOf (unit 2) [0, 23040] 255 0) ∧
    (atRecord (inFrame 8 0 false) (1 + 1) ∧ 1 < (inFrame 8 0 false).cfg.n.val ∧
      (⟨0xC3, 0xFF, 0xFF, 0⟩ : Pixel) = pixelOf (unit 2) [0, 23040] 255 1) :=
  ⟨⟨atRecord_inFrame (r := 1) (by decide), by decide, by decide +kernel⟩,
    atRecord_inFrame (r := 2) (by decide), by decide, by decide +kernel⟩

theorem witness_RecordNotDueStops :
    Instr.zerorec.space = .wire ∧ idle2.busy = false ∧ (inFrame 0 0 true).sclk = true ∧
    (inFrame 0 1 false).bitCnt ≠ 0 ∧ (inFrame 1 0 false).byteIdx.toNat % 4 ≠ 0 ∧
    (atRecord (inFrame 4 0 false) 1 ∧
      wordBytes (encode .zerorec) ≠ (List.range 4).map fun j => (inFrame 4 0 false).frameByte (4 * 1 + j)) :=
  ⟨rfl, rfl, rfl, by decide, by decide, atRecord_inFrame (r := 1) (by decide), by decide +kernel⟩

theorem gammaTable_identity : GammaTable 1 identityTable := by
  intro i
  have hi : identityTable[i].toNat = i.val := by
    have := i.isLt
    simp [identityTable]
  rw [hi, GammaEntry, Real.rpow_one, mul_div_cancel₀ _ (by norm_num)]
  have hf : ⌊((i.val : ℝ)) + 1 / 2⌋ = (i.val : ℤ) := by
    rw [Int.floor_eq_iff]
    constructor <;> push_cast <;> linarith
  have := i.isLt
  rw [hf]
  omega

theorem witness_GammaEntryCorners : (0 : ℝ) < 2.2 ∧ 255 ≤ 255 := by norm_num

theorem witness_GammaNonDecreasing : (0 : ℝ) < 1 ∧ 254 < 255 ∧ GammaTable 1 identityTable :=
  ⟨one_pos, by decide, gammaTable_identity⟩

theorem witness_GlutBuildMeetsRule : 0 < (⟨11, 5⟩ : Exponent).num ∧ 0 < (⟨11, 5⟩ : Exponent).den := by decide

theorem witness_HsvPeriodic :
    (0 : HueWord).toNat + 46080 ≤ 65535 ∧ (19455 : HueWord).toNat + 46080 ≤ 65535 ∧
    (idle2.busy = false ∧ (1 : HueIndex).toNat < idle2.cfg.n.val ∧ 46080 ≤ (46080 : HueWord).toNat) := by decide

theorem witness_ScaleTruncatesOnce :
    0 ≤ den ∧ den ≤ den ∧ 0 ≤ 1958400 ∧ 1958400 ≤ den ∧ (1 : Byte).toNat ≤ (255 : Byte).toNat := by decide

theorem witness_FullSaturationRaw : (unit 2).sat = 255 ∧ (unit 2).val = 255 := ⟨rfl, rfl⟩

theorem witness_Built : identityUnit.Built :=
  ⟨1, 1, 1, one_pos, one_pos, one_pos, gammaTable_identity, by
    rw [ite_self]
    exact ⟨gammaTable_identity, gammaTable_identity⟩⟩

end Sys2Proof.Tests
end

section
/-! The `STATUS` view (spec/10_state.md R17, R18): its value as a number, its fields, and what I4 of R22 leaves of it. -/

namespace Sys2Proof.Machine

/-- R18, R80: of the four codes only that of "no cause" is 0. -/
theorem causeCode_toNat_eq_zero_iff (c : Cause) : (causeCode c).toNat = 0 ↔ c = .none := by
  cases c <;> decide

/-- A flag appended below a word is the lowest binary digit of the result. -/
theorem toNat_append_ofBool {w : Nat} (x : BitVec w) (b : Bool) :
    (x ++ BitVec.ofBool b).toNat = 2 * x.toNat + b.toNat := by
  rw [BitVec.toNat_append, ← Nat.shiftLeft_add_eq_or_of_lt (BitVec.ofBool b).isLt, Nat.shiftLeft_eq, BitVec.toNat_ofBool]
  omega

/-- R18: `{CAUSE, ERR, BUSY}` as a number. -/
theorem statusView_toNat (s : State) :
    (statusView s).toNat = 4 * (causeCode s.cause).toNat + 2 * s.err.toNat + s.busy.toNat := by
  have hcause : (0#28 ++ causeCode s.cause).toNat = (causeCode s.cause).toNat := by
    rw [BitVec.toNat_append]
    simp
  rw [statusView, toNat_append_ofBool, toNat_append_ofBool, hcause]
  omega

theorem statusView_bit_busy (s : State) : (statusView s).getLsbD 0 = s.busy := by
  rw [statusView, BitVec.getLsbD_append]
  simp

theorem statusView_bit_err (s : State) : (statusView s).getLsbD 1 = s.err := by
  rw [statusView, BitVec.getLsbD_append, BitVec.getLsbD_append]
  simp

theorem statusView_field_cause (s : State) : (statusView s).extractLsb' 2 2 = causeCode s.cause := by
  apply BitVec.eq_of_toNat_eq
  rw [BitVec.extractLsb'_toNat, statusView_toNat, Nat.shiftRight_eq_div_pow]
  have := s.busy.toNat_lt
  have := s.err.toNat_lt
  omega

theorem statusView_reserved_zero (s : State) : (statusView s).toNat / 16 = 0 := by
  rw [statusView_toNat]
  have := s.busy.toNat_lt
  have := s.err.toNat_lt
  omega

/-- R18: with I4 of R22 the cause is 0 exactly while `ERR = 0`, so these are the only values. -/
theorem statusView_legal {s : State} (h : CauseMatches s) :
    (statusView s).toNat = 0 ∨ (statusView s).toNat = 1 ∨
      ∃ c, 1 ≤ c ∧ c ≤ 3 ∧ ((statusView s).toNat = 2 + 4 * c ∨ (statusView s).toNat = 3 + 4 * c) := by
  have hcode : s.err = false ↔ (causeCode s.cause).toNat = 0 := h.trans (causeCode_toNat_eq_zero_iff _).symm
  have hbusy := s.busy.toNat_lt
  rw [statusView_toNat]
  cases herr : s.err with
  | false =>
    simp only [hcode.mp herr, Bool.toNat_false]
    omega
  | true =>
    have hne : (causeCode s.cause).toNat ≠ 0 := fun h0 => by simp [hcode.mpr h0] at herr
    refine .inr (.inr ⟨(causeCode s.cause).toNat, by omega, by omega, ?_⟩)
    rw [Bool.toNat_true]
    omega

/-- Settles O20: the codes are those of the definition, the fields hold in every state, and the legal values need I4. -/
theorem statusLegalValues : Obligations.StatusLegalValues := by
  unfold Obligations.StatusLegalValues
  exact ⟨⟨rfl, rfl, rfl, rfl⟩, fun s hinv =>
    ⟨statusView_bit_busy s, statusView_bit_err s, statusView_field_cause s, statusView_reserved_zero s,
      statusView_legal hinv.cause⟩⟩

end Sys2Proof.Machine
end

section
/-! The decoder of the command port by classes of words (spec/30_encoding.md R34 to R36), and what the port does
with an illegal word. -/

namespace Sys2Proof

theorem decodeCommand_of_op_one {w : Word} (hop : w.toNat / 2 ^ 28 = 1) :
    decodeCommand w = .ok (.sethue (idxOf w) (hueOf w)) := by
  simp only [decodeCommand, opOf_toNat, hop]

theorem decodeCommand_of_op_two {w : Word} (hop : w.toNat / 2 ^ 28 = 2) (hzero : w.toNat / 2 ^ 8 % 2 ^ 20 = 0) :
    decodeCommand w = .ok (.start (dimOf w)) := by
  have hfield : w.extractLsb' 8 20 = 0 := (extract_eq_iff w 8 20 0).mpr hzero
  simp only [decodeCommand, opOf_toNat, hop, hfield, if_true]

end Sys2Proof

namespace Sys2Proof.Machine

/-- R36 in words of arithmetic. -/
theorem illegalWord_iff (w : Word) :
    illegalWord w = true ↔
      (5 ≤ w.toNat / 2 ^ 28 ∨
       ((w.toNat / 2 ^ 28 = 0 ∨ w.toNat / 2 ^ 28 = 3 ∨ w.toNat / 2 ^ 28 = 4) ∧ w.toNat % 2 ^ 28 ≠ 0) ∨
       (w.toNat / 2 ^ 28 = 2 ∧ w.toNat / 2 ^ 8 % 2 ^ 20 ≠ 0)) := by
  simp only [illegalWord, Bool.or_eq_true, Bool.and_eq_true, decide_eq_true_eq, beq_iff_eq, bne_iff_ne, or_assoc]

/-- A field that must be 0 (R34) makes the decoder reject exactly the words that have a bit set in it. -/
theorem ite_field_zero_eq_error_iff (w : Word) (lo len : Nat) (i : Instr) (r : DecodeReject) :
    (∃ e, (if w.extractLsb' lo len = 0 then Except.ok i else Except.error r) = Except.error e) ↔
      w.toNat / 2 ^ lo % 2 ^ len ≠ 0 := by
  have hzero : w.extractLsb' lo len = 0 ↔ w.toNat / 2 ^ lo % 2 ^ len = 0 := extract_eq_iff w lo len 0
  rw [ne_eq, ← hzero]
  split
  next hz => exact ⟨fun ⟨_, h⟩ => (nomatch h), absurd hz⟩
  next hz => exact ⟨fun _ => hz, fun _ => ⟨r, rfl⟩⟩

/-- The decoder rejects the illegal words of R36 and no others: one case for each operation code. -/
theorem decodeCommand_error_iff (w : Word) :
    (∃ e, decodeCommand w = .error e) ↔ illegalWord w = true := by
  rw [illegalWord_iff, decodeCommand, opOf_toNat]
  split
  case h_1 hop => rw [ite_field_zero_eq_error_iff]; omega
  case h_2 hop => simp only [reduceCtorEq, exists_false, false_iff]; omega
  case h_3 hop => rw [ite_field_zero_eq_error_iff]; omega
  case h_4 hop => rw [ite_field_zero_eq_error_iff]; omega
  case h_5 hop => rw [ite_field_zero_eq_error_iff]; omega
  case h_6 h0 h1 h2 h3 h4 =>
    simp only [imp_false] at h0 h1 h2 h3 h4
    exact ⟨fun _ => .inl (by omega), fun _ => ⟨_, rfl⟩⟩

/-- R36, R73: a word the decoder rejects takes the error entry. -/
theorem step_of_rejected_command {s : State} {w : Word} {rest : List Event} {e : DecodeReject}
    (hagenda : s.agenda = .command w :: rest) (hdec : decodeCommand w = .error e) :
    step s = .next (raiseErr .illegal (popEvent s)) := by
  simp only [step, hagenda, hdec]

/-- Settles O3: the words from the encoder, the patterns from the decoder by classes, and every other word is illegal by
arithmetic on its fields. -/
theorem commandCodeTable : Obligations.CommandCodeTable := by
  unfold Obligations.CommandCodeTable
  refine ⟨rfl, encode_sethue_toNat, encode_start_toNat, rfl, rfl, fun w =>
    ⟨?_, decodeCommand_of_op_one, decodeCommand_of_op_two, ?_, ?_, ?_⟩⟩
  · rintro rfl; rfl
  · rintro rfl; rfl
  · rintro rfl; rfl
  · intro hnop hsethue hstart hstatus hclrerr
    rw [decodeCommand_error_iff, illegalWord_iff]
    rw [ne_eq, ← BitVec.toNat_inj, BitVec.toNat_ofNat] at hnop hstatus hclrerr
    omega

/-- Settles O4: the decoder rejects exactly the illegal words, and the step that meets one is the error entry. -/
theorem illegalWordRefused : Obligations.IllegalWordRefused := by
  unfold Obligations.IllegalWordRefused
  refine fun w => ⟨(decodeCommand_error_iff w).trans (illegalWord_iff w), ?_⟩
  rintro s rest ⟨e, hdec⟩ hagenda
  rw [step_of_rejected_command hagenda hdec, raiseErr_spec]
  simp [popEvent, hagenda]

end Sys2Proof.Machine
end

section
/-! Pixel records (spec/30_encoding.md R38): a word is one exactly if it is the word of its own channels with their
flag; and its bits in sending order. -/

namespace Sys2Proof

theorem wellFormed_pixrec_iff (b g r : BitVec 2) (blue green red : Byte) :
    (Instr.pixrec b g r blue green red).wellFormed = true ↔
      b = ~~~(top2 blue) ∧ g = ~~~(top2 green) ∧ r = ~~~(top2 red) := by
  simp only [Instr.wellFormed, Bool.and_eq_true, beq_iff_eq, and_assoc]

theorem encode_pixrec_lead (b g r : BitVec 2) (blue green red : Byte) :
    (encode (.pixrec b g r blue green red)).extractLsb' 30 2 = 3 :=
  (extract_eq_iff _ 30 2 3).mpr (Laws.FixedBits.pixrec b g r blue green red)

theorem encode_pixrec_ne_zero (b g r : BitVec 2) (blue green red : Byte) :
    encode (.pixrec b g r blue green red) ≠ 0 := by
  intro h
  have hlead := encode_pixrec_lead b g r blue green red
  rw [h] at hlead
  exact absurd hlead (by decide)

theorem pixrecFields_encode (b g r : BitVec 2) (blue green red : Byte) :
    pixrecFields (encode (.pixrec b g r blue green red)) = .pixrec b g r blue green red := by
  have := b.isLt
  have := g.isLt
  have := r.isLt
  have := blue.isLt
  have := green.isLt
  have := red.isLt
  simp only [pixrecFields, Instr.pixrec.injEq, extract_eq_iff, encode_pixrec_toNat]
  omega

theorem encode_pixrecFields {w : Word} (hlead : w.extractLsb' 30 2 = 3) : encode (pixrecFields w) = w := by
  have := w.isLt
  have htop : w.toNat / 2 ^ 30 % 2 ^ 2 = 3 := (extract_eq_iff w 30 2 3).mp hlead
  apply BitVec.eq_of_toNat_eq
  simp only [pixrecFields, encode_pixrec_toNat, extract_toNat]
  omega

/-- R38: the only word that decodes as a pixel record is the word of that record, and only if the flag belongs to the
channels. -/
theorem decodeRecord_eq_pixrec_iff {w : Word} {b g r : BitVec 2} {blue green red : Byte} :
    decodeRecord w = .ok (.pixrec b g r blue green red) ↔
      (Instr.pixrec b g r blue green red).wellFormed = true ∧ w = encode (.pixrec b g r blue green red) := by
  constructor
  · intro h
    unfold decodeRecord at h
    split at h
    · cases h
    · split at h
      next hlead =>
        split at h
        next hwf =>
          have hfields := Except.ok.inj h
          rw [← hfields]
          exact ⟨hwf, (encode_pixrecFields hlead).symm⟩
        · cases h
      · cases h
  · rintro ⟨hwf, rfl⟩
    rw [decodeRecord, if_neg (encode_pixrec_ne_zero b g r blue green red), if_pos (encode_pixrec_lead ..), pixrecFields_encode,
      if_pos hwf]

/-- The pixel record of three corrected channels. -/
def pixelRecord (blue green red : Byte) : Instr :=
  .pixrec (~~~(top2 blue)) (~~~(top2 green)) (~~~(top2 red)) blue green red

theorem decodeRecord_encode_pixelRecord (blue green red : Byte) :
    decodeRecord (encode (pixelRecord blue green red)) = .ok (pixelRecord blue green red) :=
  decodeRecord_eq_pixrec_iff.mpr ⟨(wellFormed_pixrec_iff ..).mpr ⟨rfl, rfl, rfl⟩, rfl⟩

theorem eq_encode_pixelRecord {w : Word} {b g r : BitVec 2} {blue green red : Byte}
    (h : decodeRecord w = .ok (.pixrec b g r blue green red)) : w = encode (pixelRecord blue green red) := by
  obtain ⟨hwf, rfl⟩ := decodeRecord_eq_pixrec_iff.mp h
  obtain ⟨rfl, rfl, rfl⟩ := (wellFormed_pixrec_iff ..).mp hwf
  rfl

/-- Bit `i` of a field is bit `lo + i` of the word. -/
theorem getLsbD_extract {w : Word} {lo len i : Nat} (hi : i < len) :
    (w.extractLsb' lo len).getLsbD i = w.getLsbD (lo + i) := by
  simp [hi]

theorem bits_of_lead {w : Word} (h : w.extractLsb' 30 2 = 3) : w.getLsbD 31 = true ∧ w.getLsbD 30 = true := by
  have hbit (i : Nat) (hi : i < 2) : w.getLsbD (30 + i) = (3 : BitVec 2).getLsbD i := by
    rw [← getLsbD_extract hi, h]
  exact ⟨hbit 1 (by decide), hbit 0 (by decide)⟩

/-- A field of the flag that is the complement of a channel's top two bits, bit by bit. -/
theorem bits_of_extract_eq_not_top2 {w : Word} {lo : Nat} {x : Byte} (h : w.extractLsb' lo 2 = ~~~(top2 x)) :
    w.getLsbD (lo + 1) = !x.getLsbD 7 ∧ w.getLsbD lo = !x.getLsbD 6 := by
  have hbit (i : Nat) (hi : i < 2) : w.getLsbD (lo + i) = !x.getLsbD (6 + i) := by
    rw [← getLsbD_extract hi, h]
    simp [top2, hi]
  exact ⟨hbit 1 (by decide), hbit 0 (by decide)⟩

end Sys2Proof

namespace Sys2Proof.Machine

/-- Bit `j` of byte `i` in sending order (R26). -/
theorem bytesBits_get (bs : List Byte) (i : Nat) {j : Nat} (hj : j < 8) :
    (bytesBits bs)[8 * i + j]? = bs[i]?.map fun b => b.getLsbD (7 - j) := by
  induction bs generalizing i with
  | nil => simp [bytesBits]
  | cons b bs ih =>
    have hlen : (byteBits b).length = 8 := rfl
    have hcons : bytesBits (b :: bs) = byteBits b ++ bytesBits bs := rfl
    rw [hcons]
    cases i with
    | zero =>
      rw [List.getElem?_append_left (by omega), Nat.mul_zero, Nat.zero_add, byteBits_get b hj]
      rfl
    | succ i =>
      rw [List.getElem?_append_right (by omega), show 8 * (i + 1) + j - (byteBits b).length = 8 * i + j by omega, ih]
      rfl

theorem wordBytes_get (w : Word) {i : Nat} (hi : i < 4) :
    (wordBytes w)[i]? = some (w.extractLsb' (24 - 8 * i) 8) := by
  interval_cases i <;> rfl

/-- R38: a word is sent from bit 31 down. -/
theorem bytesBits_wordBytes_get (w : Word) {m : Nat} (hm : m < 32) :
    (bytesBits (wordBytes w))[m]? = some (w.getLsbD (31 - m)) := by
  have hj : m % 8 < 8 := Nat.mod_lt _ (by decide)
  rw [← Nat.div_add_mod m 8, bytesBits_get _ _ hj, wordBytes_get w (by omega), Option.map_some,
    getLsbD_extract (by omega)]
  congr 2
  omega

/-- Settles O5: the word is the encoding of the channels with their flag, its fields are read back from it, and no other
word decodes to them. -/
theorem pixelRecordUnique : Obligations.PixelRecordUnique := by
  unfold Obligations.PixelRecordUnique
  intro blue green red
  set w := encode (pixelRecord blue green red)
  have hfields : pixrecFields w = pixelRecord blue green red := pixrecFields_encode ..
  simp only [pixrecFields, pixelRecord, Instr.pixrec.injEq] at hfields
  obtain ⟨hb, hg, hr, hblue, hgreen, hred⟩ := hfields
  obtain ⟨h29, h28⟩ := bits_of_extract_eq_not_top2 hb
  obtain ⟨h27, h26⟩ := bits_of_extract_eq_not_top2 hg
  obtain ⟨h25, h24⟩ := bits_of_extract_eq_not_top2 hr
  obtain ⟨h31, h30⟩ := bits_of_lead (encode_pixrec_lead .. : w.extractLsb' 30 2 = 3)
  refine ⟨w, ⟨_, _, _, decodeRecord_encode_pixelRecord ..⟩, fun _ _ _ _ => eq_encode_pixelRecord, hblue, hgreen, hred,
    h31, h30, h29, h28, h27, h26, h25, h24, ?_, fun _ => bytesBits_wordBytes_get w⟩
  rw [wordBytes, hblue, hgreen, hred]

end Sys2Proof.Machine
end

section
/-! The gamma rule (spec/40_gamma_lut.md R44): for a positive exponent the clamp never acts, so an entry is the rounded
value of the curve, and it keeps the order of the levels. -/

namespace Sys2Proof

/-- `255 * (i/255)^g`, the value that R44 rounds. -/
noncomputable def gammaCurve (g : ℝ) (i : Nat) : ℝ := 255 * ((i : ℝ) / 255) ^ g

theorem gammaCurve_nonneg (g : ℝ) (i : Nat) : 0 ≤ gammaCurve g i := by
  unfold gammaCurve
  positivity

theorem gammaCurve_mono {g : ℝ} {i j : Nat} (hg : 0 < g) (hij : i ≤ j) : gammaCurve g i ≤ gammaCurve g j := by
  unfold gammaCurve
  gcongr

theorem gammaCurve_zero {g : ℝ} (hg : 0 < g) : gammaCurve g 0 = (0 : Nat) := by
  simp [gammaCurve, Real.zero_rpow hg.ne']

theorem gammaCurve_top (g : ℝ) : gammaCurve g 255 = (255 : Nat) := by
  simp [gammaCurve]

theorem gammaCurve_one (i : Nat) : gammaCurve 1 i = i := by
  rw [gammaCurve, Real.rpow_one, mul_div_cancel₀ _ (by norm_num)]

theorem gammaCurve_le {g : ℝ} {i : Nat} (hg : 0 < g) (hi : i ≤ 255) : gammaCurve g i ≤ 255 := by
  simpa [gammaCurve_top] using gammaCurve_mono hg hi

theorem floor_gammaCurve_nonneg (g : ℝ) (i : Nat) : 0 ≤ ⌊gammaCurve g i + 1 / 2⌋ :=
  Int.floor_nonneg.mpr (add_nonneg (gammaCurve_nonneg g i) (by norm_num))

theorem floor_gammaCurve_le {g : ℝ} {i : Nat} (hg : 0 < g) (hi : i ≤ 255) : ⌊gammaCurve g i + 1 / 2⌋ ≤ 255 := by
  have hlt : ⌊gammaCurve g i + 1 / 2⌋ < 256 := by
    rw [Int.floor_lt]
    push_cast
    linarith [gammaCurve_le hg hi]
  omega

/-- R44 with the clamp gone: it never acts on a level of 8 bits. -/
theorem gammaEntry_iff_floor {g : ℝ} {i : Nat} (hg : 0 < g) (hi : i ≤ 255) (y : Nat) :
    GammaEntry g i y ↔ (y : ℤ) = ⌊gammaCurve g i + 1 / 2⌋ := by
  have hclamp : min 255 (max 0 ⌊gammaCurve g i + 1 / 2⌋) = ⌊gammaCurve g i + 1 / 2⌋ := by
    rw [max_eq_right (floor_gammaCurve_nonneg g i), min_eq_right (floor_gammaCurve_le hg hi)]
  rw [← hclamp]
  rfl

theorem existsUnique_gammaEntry {g : ℝ} {i : Nat} (hg : 0 < g) (hi : i ≤ 255) : ∃! y, GammaEntry g i y := by
  simp only [gammaEntry_iff_floor hg hi]
  obtain ⟨y, hy⟩ := Int.eq_ofNat_of_zero_le (floor_gammaCurve_nonneg g i)
  exact ⟨y, hy.symm, fun z hz => Int.ofNat_inj.mp (hz.trans hy)⟩

/-- Where the curve takes a whole value, rounding leaves it. -/
theorem gammaEntry_of_curve_eq {g : ℝ} {i y : Nat} (hg : 0 < g) (hi : i ≤ 255) (hy : gammaCurve g i = y) :
    GammaEntry g i y := by
  have hhalf : ⌊(1 / 2 : ℝ)⌋ = 0 := by norm_num
  rw [gammaEntry_iff_floor hg hi, hy, Int.floor_natCast_add, hhalf, add_zero]

theorem gammaEntry_mono {g : ℝ} {i j y z : Nat} (hg : 0 < g) (hij : i ≤ j) (hj : j ≤ 255) (hy : GammaEntry g i y)
    (hz : GammaEntry g j z) : y ≤ z := by
  rw [gammaEntry_iff_floor hg (hij.trans hj)] at hy
  rw [gammaEntry_iff_floor hg hj] at hz
  have hfloor : ⌊gammaCurve g i + 1 / 2⌋ ≤ ⌊gammaCurve g j + 1 / 2⌋ := by
    gcongr
    exact gammaCurve_mono hg hij
  omega

/-- Settles O40: the clamp never acts, so the entry is the floor, and at the three corners the curve is already whole. -/
theorem gammaEntryCorners : Obligations.GammaEntryCorners := by
  unfold Obligations.GammaEntryCorners
  refine ⟨fun g i hg hi => ⟨existsUnique_gammaEntry hg hi, fun y => (gammaEntry_iff_floor hg hi y).mp⟩,
    fun g hg => ⟨?_, ?_⟩, fun i hi => ?_⟩
  · exact gammaEntry_of_curve_eq hg (by decide) (gammaCurve_zero hg)
  · exact gammaEntry_of_curve_eq hg le_rfl (gammaCurve_top g)
  · exact gammaEntry_of_curve_eq one_pos hi (gammaCurve_one i)

/-- Settles O41: the curve is monotone for every positive exponent, and rounding keeps the order. -/
theorem gammaNonDecreasing : Obligations.GammaNonDecreasing := by
  unfold Obligations.GammaNonDecreasing
  intro g t i hi hg ht
  exact gammaEntry_mono hg (Nat.le_succ i) hi (ht ⟨i, by omega⟩) (ht ⟨i + 1, by omega⟩)

end Sys2Proof
end

section
/-! The colour conversion (spec/41_hsv_to_rgb.md R52, R54). The four numbers of R52, and those of the source's formula,
are one falling ramp at four places of the sector, so `HSV2RGB` is that ramp, the places of the hue and the table of the
six sectors. The grey branch agrees with the rest (R53(a)), so the equations below need no saturation hypothesis. -/

namespace Sys2Proof.Machine

/-- The table of the six sectors (R52), over any kind of number. -/
def sectorColour {α : Type} (k : Nat) (v p q t : α) : Rgb α :=
  match k with
  | 0 => ⟨v, t, p⟩
  | 1 => ⟨q, v, p⟩
  | 2 => ⟨p, v, t⟩
  | 3 => ⟨p, q, v⟩
  | 4 => ⟨t, p, v⟩
  | _ => ⟨v, p, q⟩

/-- Channel by channel. -/
def Rgb.map {α β : Type} (f : α → β) (x : Rgb α) : Rgb β := ⟨f x.r, f x.g, f x.b⟩

theorem map_sectorColour {α β : Type} (f : α → β) (k : Nat) (v p q t : α) :
    (sectorColour k v p q t).map f = sectorColour k (f v) (f p) (f q) (f t) := by
  unfold sectorColour
  split <;> rfl

theorem sectorColour_same {α : Type} (k : Nat) (v : α) : sectorColour k v v v v = ⟨v, v, v⟩ := by
  unfold sectorColour
  split <;> rfl

/-- A numerator that falls with the place `x` in the sector: `Cv` of R52 at 0, `Cp` at `SECT`, `Cq` at `rem` and `Ct` at
`SECT - rem`. -/
def ramp (sa va : Byte) (x : Nat) : Nat := va.toNat * (kv - sa.toNat * x)

theorem ramp_zero (sa va : Byte) : ramp sa va 0 = va.toNat * kv := by
  simp [ramp]

theorem ramp_sect (sa va : Byte) : ramp sa va sect = va.toNat * (255 - sa.toNat) * sect := by
  have hkv : kv = 255 * sect := rfl
  rw [ramp, hkv, ← Nat.sub_mul, Nat.mul_assoc]

/-- R53(a): without saturation the ramp is flat. -/
theorem ramp_of_sat_eq_zero {sa : Byte} (hs : sa.toNat = 0) (va : Byte) (x : Nat) : ramp sa va x = va.toNat * kv := by
  simp [ramp, hs]

/-- R52, with the grey branch merged into the sectors. -/
theorem hsv2rgb_eq_sectorColour (h : HueWord) (sa va : Byte) :
    hsv2rgb h sa va =
      sectorColour (sectorOf h) (ramp sa va 0) (ramp sa va sect) (ramp sa va (remOf h)) (ramp sa va (sect - remOf h)) := by
  by_cases hs : sa.toNat = 0
  · simp only [hsv2rgb, if_pos hs, ramp_of_sat_eq_zero hs, sectorColour_same]
  · simp only [hsv2rgb, if_neg hs, ramp_zero, ramp_sect]
    rfl

/-- The source's `value`, `p`, `q` and `t` as a ramp over the fraction of the sector. -/
def rampReal (s v x : ℚ) : ℚ := v * (1 - s * x)

/-- The formula quoted in R52, with the grey branch merged into the sectors: its threshold has no effect on a saturation
that is 0 or at least the threshold. -/
theorem hsvReal_eq_sectorColour {s : ℚ} (hs : s = 0 ∨ 1 / 1000000 ≤ s) (h v : ℚ) :
    hsvReal h s v =
      sectorColour (⌊h / 60⌋ % 6).toNat (rampReal s v 0) (rampReal s v 1) (rampReal s v (h / 60 - ⌊h / 60⌋))
        (rampReal s v (1 - (h / 60 - ⌊h / 60⌋))) := by
  have hvalue : rampReal s v 0 = v := by simp [rampReal]
  have hp : rampReal s v 1 = v * (1 - s) := by simp [rampReal]
  rcases hs with rfl | hs
  · have hflat (x : ℚ) : rampReal 0 v x = v := by simp [rampReal]
    rw [hsvReal, if_pos (by norm_num)]
    simp only [hflat, sectorColour_same]
  · rw [hvalue, hp, hsvReal, if_neg (not_lt.mpr hs)]
    rfl

/-- R52: `S = 0` is the only code below the source's threshold. -/
theorem satCode_eq_zero_or_ge (sa : Byte) : (sa.toNat / 255 : ℚ) = 0 ∨ 1 / 1000000 ≤ (sa.toNat / 255 : ℚ) := by
  rcases Nat.eq_zero_or_pos sa.toNat with h0 | hpos
  · exact .inl (by simp [h0])
  · have hone : (1 : ℚ) ≤ sa.toNat := by exact_mod_cast hpos
    exact .inr (by linarith)

theorem hueDegrees_div_sixty (h : HueWord) : (h.toNat / 128 : ℚ) / 60 = (h.toNat : ℚ) / sect := by
  rw [div_div, sect]
  norm_num

/-- R52: `floor(h/60) = H div 7680`. -/
theorem floor_hueDegrees (h : HueWord) : ⌊(h.toNat / 128 : ℚ) / 60⌋ = ((h.toNat / sect : Nat) : ℤ) := by
  rw [hueDegrees_div_sixty, Rat.floor_natCast_div_natCast, Int.natCast_ediv]

/-- R52: the fractional part of `h/60` is `rem/7680`. -/
theorem fract_hueDegrees (h : HueWord) :
    (h.toNat / 128 : ℚ) / 60 - (((h.toNat / sect : Nat) : ℤ) : ℚ) = (remOf h : ℚ) / sect := by
  have hdiv : ((sect * (h.toNat / sect) + remOf h : Nat) : ℚ) = h.toNat := congrArg _ (Nat.div_add_mod h.toNat sect)
  have hsect : (sect : ℚ) ≠ 0 := by norm_num [sect]
  rw [hueDegrees_div_sixty, ← hdiv]
  rw [Int.cast_natCast, Nat.cast_add, Nat.cast_mul]
  field_simp
  ring

theorem remOf_le_sect (h : HueWord) : remOf h ≤ sect := (Nat.mod_lt _ (by decide)).le

/-- R52: a numerator over `DEN` is the source's number with no error; by R53(e) the subtraction does not go below 0. -/
theorem ramp_div_den (sa va : Byte) {x : Nat} (hx : x ≤ sect) :
    (ramp sa va x : ℚ) / den = rampReal (sa.toNat / 255) (va.toNat / 255) (x / sect) := by
  have hle : sa.toNat * x ≤ kv := Nat.mul_le_mul (Nat.le_of_lt_succ sa.isLt : sa.toNat ≤ 255) hx
  rw [ramp, rampReal, Nat.cast_mul, Nat.cast_sub hle, Nat.cast_mul]
  norm_num [kv, den, sect]
  ring

/-- R52: all three numerators at once. -/
theorem hsv2rgb_div_den (h : HueWord) (sa va : Byte) :
    (hsv2rgb h sa va).map (fun c : Nat => (c : ℚ) / den) =
      hsvReal (h.toNat / 128) (sa.toNat / 255) (va.toNat / 255) := by
  have hsect : (sect : ℚ) / sect = 1 := div_self (by norm_num [sect])
  have hsector : ((h.toNat / sect : Nat) % 6 : ℤ).toNat = sectorOf h := rfl
  have hrem := remOf_le_sect h
  rw [hsv2rgb_eq_sectorColour, hsvReal_eq_sectorColour (satCode_eq_zero_or_ge sa), floor_hueDegrees, fract_hueDegrees,
    hsector, map_sectorColour, ramp_div_den sa va (Nat.zero_le _), ramp_div_den sa va le_rfl, ramp_div_den sa va hrem,
    ramp_div_den sa va (Nat.sub_le _ _), Nat.cast_sub hrem, sub_div, hsect, Nat.cast_zero, zero_div]

/-- Settles O44: both conversions are the same ramp read through the same table of sectors. -/
theorem hsvMeetsRealFormula : Obligations.HsvMeetsRealFormula := by
  unfold Obligations.HsvMeetsRealFormula
  intro h sa va
  simp only [← hsv2rgb_div_den]
  exact ⟨rfl, rfl, rfl⟩

/-- R54: where the word can hold it, a full turn is added without wrapping. -/
theorem toNat_add_turn {h : HueWord} (hlt : h.toNat + 46080 ≤ 65535) : (h + 46080).toNat = h.toNat + 46080 :=
  BitVec.toNat_add_of_lt (Nat.lt_succ_of_le hlt)

/-- R54: a full turn adds 6 to `H div 7680`. -/
theorem sectorOf_add_turn {h : HueWord} (hlt : h.toNat + 46080 ≤ 65535) : sectorOf (h + 46080) = sectorOf h := by
  rw [sectorOf, sectorOf, toNat_add_turn hlt, sect]
  omega

/-- R54: a full turn leaves `rem` unchanged. -/
theorem remOf_add_turn {h : HueWord} (hlt : h.toNat + 46080 ≤ 65535) : remOf (h + 46080) = remOf h := by
  rw [remOf, remOf, toNat_add_turn hlt, sect]
  omega

/-- R75: an idle `SETHUE` in range is carried out, whatever the hue word. -/
theorem exec_sethue_accepted {s : State} {idx : HueIndex} (hbusy : s.busy = false) (hidx : idx.toNat < s.cfg.n.val)
    (hue : HueWord) : exec (.sethue idx hue) s = .next (respond .ok 0 (writeHue idx hue s)) := by
  simp [exec, execSethue, hueInRange, hbusy, hidx]

/-- Settles O47: the sector and the place in it are those of the hue one turn lower, and nothing else of the hue is
read; `SETHUE` does not look at its hue word. -/
theorem hsvPeriodic : Obligations.HsvPeriodic := by
  unfold Obligations.HsvPeriodic
  refine ⟨fun h sa va hlt => ?_, fun s idx hue hbusy hidx _ => ⟨_, exec_sethue_accepted hbusy hidx hue, ?_⟩⟩
  · rw [hsv2rgb_eq_sectorColour, sectorOf_add_turn hlt, remOf_add_turn hlt, ← hsv2rgb_eq_sectorColour]
  · rw [respond_responses, writeHue_responses]

end Sys2Proof.Machine
end

section
/-! `SCALE8` (spec/41_hsv_to_rgb.md R56): the quotient fits in a byte, so the result is that quotient, and its bounds and
its order are those of the division. -/

namespace Sys2Proof.Machine

theorem scaleQuotient_le {c : Nat} (hc : c ≤ den) (d : Nat) : c * d / den ≤ d :=
  Nat.div_le_of_le_mul (Nat.mul_le_mul_right d hc)

/-- R56: for a channel numerator the byte holds the whole quotient. -/
theorem scale8_toNat {c : Nat} (hc : c ≤ den) (d : Byte) : (scale8 c d).toNat = c * d.toNat / den := by
  rw [scale8, BitVec.toNat_ofNat, Nat.mod_eq_of_lt (lt_of_le_of_lt (scaleQuotient_le hc _) d.isLt)]

theorem scale8_toNat_le {c : Nat} (hc : c ≤ den) (d : Byte) : (scale8 c d).toNat ≤ d.toNat := by
  rw [scale8_toNat hc]
  exact scaleQuotient_le hc _

/-- R56: `floor(c * D)` for the channel `c = C/DEN`. -/
theorem scale8_eq_floor {c : Nat} (hc : c ≤ den) (d : Byte) :
    ((scale8 c d).toNat : ℤ) = ⌊(c : ℚ) / den * d.toNat⌋ := by
  rw [scale8_toNat hc, div_mul_eq_mul_div, ← Nat.cast_mul, Rat.floor_natCast_div_natCast, Int.natCast_ediv]

@[simp] theorem scale8_zero (c : Nat) : scale8 c 0 = 0 := by
  simp [scale8]

/-- R56: at `D = 1` only the full channel is not truncated away. -/
theorem scale8_one {c : Nat} (hc : c ≤ den) : scale8 c 1 = if c = den then 1 else 0 := by
  apply BitVec.eq_of_toNat_eq
  rw [scale8_toNat hc, show (1 : Byte).toNat = 1 from rfl, Nat.mul_one]
  split
  next hfull => rw [hfull]; rfl
  next hlow => exact Nat.div_eq_of_lt (lt_of_le_of_ne hc hlow)

theorem scale8_mono {c c' : Nat} {d d' : Byte} (hc : c ≤ c') (hc' : c' ≤ den) (hd : d.toNat ≤ d'.toNat) :
    (scale8 c d).toNat ≤ (scale8 c' d').toNat := by
  rw [scale8_toNat (hc.trans hc'), scale8_toNat hc']
  gcongr

/-- Settles O48: the result is the quotient itself; the last three values are computed. -/
theorem scaleTruncatesOnce : Obligations.ScaleTruncatesOnce := by
  unfold Obligations.ScaleTruncatesOnce
  exact ⟨fun c d hc => ⟨scale8_eq_floor hc d, scale8_toNat hc d, scale8_toNat_le hc d, scale8_zero c, scale8_one hc⟩,
    fun _ _ _ _ => scale8_mono, rfl, rfl, rfl⟩

end Sys2Proof.Machine
end

section
/-! The flag byte (spec/42_pixel_encoder.md R59, R60): the shifts and masks of R59 put the top bits of the three
channels side by side, and both readings of the flag, by bits and as a number, are those of that row of fields. -/

namespace Sys2Proof.Machine

/-- A two-bit field appended below a word is the lowest digit to base 4 of the result. -/
theorem toNat_append_two {w : Nat} (x : BitVec w) (y : BitVec 2) : (x ++ y).toNat = 4 * x.toNat + y.toNat := by
  rw [BitVec.toNat_append, ← Nat.shiftLeft_add_eq_or_of_lt y.isLt, Nat.shiftLeft_eq, Nat.mul_comm]

/-- R59, R60: the packed byte is `{b'[7:6], g'[7:6], r'[7:6]}` below two zero bits. -/
theorem packTop2_eq_append (r g b : Byte) : packTop2 r g b = 0#2 ++ top2 b ++ top2 g ++ top2 r := by
  apply BitVec.eq_of_getLsbD_eq
  intro i hi
  simp only [BitVec.getLsbD_append]
  interval_cases i <;> simp [packTop2, top2]

theorem packTop2_toNat (r g b : Byte) :
    (packTop2 r g b).toNat = 16 * (b.toNat / 64) + 4 * (g.toNat / 64) + r.toNat / 64 := by
  simp only [packTop2_eq_append, toNat_append_two, top2_toNat, BitVec.toNat_ofNat]
  omega

/-- R59: the flag is made from the very bytes that follow it. -/
theorem pixenc_flag (c : Config) (raw : Rgb Byte) :
    (pixenc c raw).flag = ~~~(packTop2 (pixenc c raw).red (pixenc c raw).green (pixenc c raw).blue) := rfl

/-- Bit `i` of the flag is the complement of bit `i` of the row of fields. -/
theorem pixenc_flag_bit (c : Config) (raw : Rgb Byte) {i : Nat} (hi : i < 8) :
    let p := pixenc c raw
    p.flag.getLsbD i = !(0#2 ++ top2 p.blue ++ top2 p.green ++ top2 p.red).getLsbD i := by
  intro p
  rw [pixenc_flag, BitVec.getLsbD_not, decide_eq_true hi, Bool.true_and, packTop2_eq_append]

theorem pixenc_flag_toNat (c : Config) (raw : Rgb Byte) :
    let p := pixenc c raw
    p.flag.toNat = 255 - (16 * (p.blue.toNat / 64) + 4 * (p.green.toNat / 64) + p.red.toNat / 64) := by
  intro p
  rw [pixenc_flag, BitVec.toNat_not, packTop2_toNat]

/-- Settles O50: each bit of the flag is read off the row of fields, the number is 255 less that of the row. -/
theorem flagByte : Obligations.FlagByte := by
  unfold Obligations.FlagByte
  intro c raw p
  have hbit {i : Nat} (hi : i < 8) := pixenc_flag_bit c raw hi
  simp only [BitVec.getLsbD_append] at hbit
  refine ⟨?_, ?_, ?_, ?_, ?_, ?_, ?_, ?_, pixenc_flag_toNat c raw⟩
  all_goals
    rw [hbit (by decide)]
    simp [top2, p]

end Sys2Proof.Machine
end

section
/-! The layout of the frame (spec/43_frame_assembler.md R63, R64): the byte indices are those of the leading zero
record, four for each pixel in strip order, and those of the two closing zero records. -/

namespace Sys2Proof.Machine

/-- What is listed by index up to `n` blocks of `m` is listed block by block. -/
theorem map_range_mul {α : Type} (f : Nat → α) (m n : Nat) :
    (List.range (m * n)).map f = (List.range n).flatMap fun i => (List.range m).map fun j => f (m * i + j) := by
  induction n with
  | zero => rfl
  | succ n ih => simp [Nat.mul_succ, List.range_add, List.range_succ, ih]

/-! ### `FrameByte` in each part of the frame (R64) -/

theorem frameByte_start (c : Config) (hues : List HueWord) (d : Byte) {k : Nat} (hk : k < 4) :
    frameByte c hues d k = 0 := if_pos hk

theorem frameByte_pixel (c : Config) (hues : List HueWord) (d : Byte) {i j : Nat} (hi : i < c.n.val) (hj : j < 4) :
    frameByte c hues d (4 + (4 * i + j)) = (pixelOf c hues d i).byte j := by
  have hdiv : (4 * i + j) / 4 = i := by omega
  have hmod : (4 * i + j) % 4 = j := by omega
  rw [frameByte, if_neg (by omega), if_pos (by omega), Nat.add_sub_cancel_left, hdiv, hmod]

theorem frameByte_end (c : Config) (hues : List HueWord) (d : Byte) {k : Nat} (hk : 4 + 4 * c.n.val ≤ k) :
    frameByte c hues d k = 0 := by
  rw [frameByte, if_neg (by omega), if_neg (by omega)]

/-- The bytes of a record in sending order are its bytes 0 to 3 (R59, R64). -/
theorem Pixel.map_byte_range (p : Pixel) : (List.range 4).map p.byte = p.bytes := rfl

/-- The bytes from index 4 on are those of the pixels, pixel 0 first (R64). -/
theorem map_frameByte_pixels (c : Config) (hues : List HueWord) (d : Byte) :
    (List.range (4 * c.n.val)).map (fun k => frameByte c hues d (4 + k)) =
      (List.range c.n.val).flatMap fun i => (pixelOf c hues d i).bytes := by
  rw [map_range_mul]
  refine List.flatMap_congr fun i hi => ?_
  rw [← Pixel.map_byte_range]
  exact List.map_congr_left fun j hj =>
    frameByte_pixel c hues d (List.mem_range.mp hi) (List.mem_range.mp hj)

/-- R64: the frame in its three parts. -/
theorem frameOf_eq_append (c : Config) (hues : List HueWord) (d : Byte) :
    frameOf c hues d = List.replicate 4 0 ++ ((List.range c.n.val).flatMap fun i => (pixelOf c hues d i).bytes) ++
      List.replicate 8 0 := by
  have hbytes : c.frameBytes = 4 + 4 * c.n.val + 8 := by unfold Config.frameBytes; omega
  have hstart : (List.range 4).map (frameByte c hues d) = List.replicate 4 0 :=
    List.map_eq_replicate_iff.mpr fun k hk => frameByte_start c hues d (List.mem_range.mp hk)
  have hend : (List.range 8).map (fun k => frameByte c hues d (4 + 4 * c.n.val + k)) = List.replicate 8 0 :=
    List.map_eq_replicate_iff.mpr fun k _ => frameByte_end c hues d (Nat.le_add_right _ k)
  rw [← map_frameByte_pixels, ← hstart, ← hend, frameOf, hbytes, List.range_add, List.range_add]
  simp only [List.map_append, List.map_map, Function.comp_def]

/-- Settles O54: the three parts of the frame, the two closing zero records written apart. -/
theorem frameLayout : Obligations.FrameLayout := by
  unfold Obligations.FrameLayout
  intro c hues d
  refine ⟨?_, frameOf_length c hues d⟩
  rw [frameOf_eq_append, List.append_assoc _ [0, 0, 0, 0] [0, 0, 0, 0]]
  rfl

end Sys2Proof.Machine
end

section
/-! One clock edge of the engine (spec/44_serializer.md R69, R70): which case of the edge is taken, and which bit of the
frame is on `MOSI`. -/

namespace Sys2Proof.Machine

variable {s : State}

theorem step_edge {rest : List Event} (hagenda : s.agenda = .edge :: rest) :
    step s = .next (engineEdge (popEvent s)) := by
  simp only [step, hagenda]

theorem popEvent_of_agenda {e : Event} {rest : List Event} (hagenda : s.agenda = e :: rest) :
    popEvent s = { s with agenda := rest } := by
  rw [popEvent, hagenda, List.tail_cons]

theorem engineEdge_of_low (hbusy : s.busy = true) (hsclk : s.sclk = false) : engineEdge s = rise s := by
  simp [engineEdge, hbusy, hsclk]

theorem engineEdge_of_high (hbusy : s.busy = true) (hsclk : s.sclk = true) : engineEdge s = fall s := by
  simp [engineEdge, hbusy, hsclk]

theorem fall_of_bitCnt_lt (hbit : s.bitCnt.toNat < 7) : fall s = fallBit s := if_pos hbit

theorem fall_of_byteIdx_lt (hbit : s.bitCnt = 7) (hbyte : s.byteIdx.toNat < s.cfg.frameBytes - 1) :
    fall s = fallByte s := by
  rw [fall, if_neg (by simp [hbit]), if_pos hbyte]

theorem fall_of_last (hbit : s.bitCnt = 7) (hbyte : ¬ s.byteIdx.toNat < s.cfg.frameBytes - 1) :
    fall s = fallLast s := by
  rw [fall, if_neg (by simp [hbit]), if_neg hbyte]

/-- I2 of R22 bit by bit: the top bit of the rest of a byte is the next one to send. -/
theorem mosi_eq_frameByte_bit (hinv : Inv s) (hbusy : s.busy = true) :
    s.mosi = (s.frameByte s.byteIdx.toNat).getLsbD (7 - s.bitCnt.toNat) := by
  obtain ⟨-, hshreg, hmosi⟩ := hinv.shift hbusy
  have hbit : s.bitCnt.toNat ≤ 7 := Nat.le_of_lt_succ s.bitCnt.isLt
  rw [hmosi, hshreg, BitVec.getLsbD_shiftLeft, decide_eq_true (by decide), decide_eq_false (Nat.not_lt.mpr hbit)]
  rfl

/-- R69, R11: with `SCLK` low the scheduled edge is `RISE`. -/
theorem step_edge_low {rest : List Event} (hbusy : s.busy = true) (hsclk : s.sclk = false)
    (hagenda : s.agenda = .edge :: rest) : step s = .next (rise (popEvent s)) := by
  rw [step_edge hagenda, engineEdge_of_low (s := popEvent s) hbusy hsclk]

/-- R70, R11: with `SCLK` high the scheduled edge is `FALL`. -/
theorem step_edge_high {rest : List Event} (hbusy : s.busy = true) (hsclk : s.sclk = true)
    (hagenda : s.agenda = .edge :: rest) : step s = .next (fall (popEvent s)) := by
  rw [step_edge hagenda, engineEdge_of_high (s := popEvent s) hbusy hsclk]

/-- Settles O32: the edge is `RISE`, and the bit is the one I2 keeps on `MOSI`. -/
theorem riseEffect : Obligations.RiseEffect := by
  unfold Obligations.RiseEffect
  refine fun s hbusy hsclk => ⟨fun rest hagenda => ?_, fun hinv => mosi_eq_frameByte_bit hinv hbusy⟩
  rw [step_edge_low hbusy hsclk hagenda, rise_spec, popEvent_of_agenda hagenda]

/-- Settles O33: the edge is `FALL`, in the case that the two counters choose. -/
theorem fallEffect : Obligations.FallEffect := by
  unfold Obligations.FallEffect
  intro s rest hbusy hsclk hagenda
  rw [step_edge_high hbusy hsclk hagenda]
  refine ⟨fun hbit => ?_, fun hbit hbyte => ?_, fun hbit hbyte => ?_⟩
  · rw [fall_of_bitCnt_lt (s := popEvent s) hbit, fallBit, popEvent_of_agenda hagenda]
  · rw [fall_of_byteIdx_lt (s := popEvent s) hbit hbyte, fallByte_spec, popEvent_of_agenda hagenda]
    rfl
  · rw [fall_of_last (s := popEvent s) hbit hbyte, fallLast, popEvent_of_agenda hagenda]

end Sys2Proof.Machine
end

section
/-! A frame in flight under any schedule (spec/44_serializer.md R71, spec/20_memory.md R31): the clock edges since the
`START` are counted by the position and `SCLK`, each of them adds to the trace what the frame has at that place, and
host commands neither move the count nor touch what the frame is made of. -/

namespace Sys2Proof.Machine

variable {s t : State}

/-! ### Clock edges -/

/-- The clock edges of the current frame that have happened: two for each bit sent, one more while `SCLK` is high. -/
def edgesDone (s : State) : Nat := 2 * pos s + s.sclk.toNat

theorem frameBits_eq (c : Config) : c.frameBits = 8 * c.frameBytes := by
  unfold Config.frameBits Config.frameBytes
  omega

/-- R70, R16: a falling edge that is not the last of the frame goes on to the next bit. -/
theorem fall_pos (hbusy : s.busy = true) (hmore : pos s + 1 < s.cfg.frameBits) :
    (fall s).busy = true ∧ (fall s).sclk = false ∧ pos (fall s) = pos s + 1 := by
  have hbits := frameBits_eq s.cfg
  unfold pos at hmore
  rcases fall_cases s with ⟨hbit, he⟩ | ⟨hbit, hbyte, he⟩ | ⟨hbit, hbyte, -⟩
  · refine he ▸ ⟨hbusy, rfl, ?_⟩
    rw [pos, fallBit, bitCnt_succ hbit, pos, Nat.add_assoc]
  · refine he ▸ ⟨hbusy, rfl, ?_⟩
    rw [fallByte_spec, pos, byteIdx_succ hbyte, pos, hbit]
    rfl
  · rw [hbit] at hmore
    simp at hmore
    omega

/-- R71: an edge that is not the last of the frame is counted. -/
theorem engineEdge_edgesDone (hbusy : s.busy = true) (hmore : edgesDone s + 1 < 2 * s.cfg.frameBits) :
    (engineEdge s).busy = true ∧ edgesDone (engineEdge s) = edgesDone s + 1 := by
  cases hsclk : s.sclk with
  | false =>
    rw [engineEdge_of_low hbusy hsclk, rise_spec, edgesDone, edgesDone, hsclk]
    exact ⟨hbusy, rfl⟩
  | true =>
    have hdone : edgesDone s = 2 * pos s + 1 := by rw [edgesDone, hsclk]; rfl
    obtain ⟨hbusy', hsclk', hpos⟩ := fall_pos hbusy (by omega)
    rw [engineEdge_of_high hbusy hsclk, edgesDone, hsclk', hpos, hdone]
    exact ⟨hbusy', rfl⟩

/-- I2 of R22 in terms of the whole frame: on `MOSI` is the bit of the frame at the position. -/
theorem frame_bit_at_pos (hinv : Inv s) (hbusy : s.busy = true) : (bytesBits s.frame)[pos s]? = some s.mosi := by
  have hbyte : s.byteIdx.toNat < s.cfg.frameBytes := (hinv.shift hbusy).1
  rw [pos, bytesBits_get _ _ s.bitCnt.isLt, State.frame, frameOf, List.getElem?_map, List.getElem?_range hbyte,
    mosi_eq_frameByte_bit hinv hbusy]
  rfl

/-- R69 to R71: if the trace ends in the bits of the frame that have been sampled, so it does after one edge more. -/
theorem engineEdge_trace (hinv : Inv s) (hbusy : s.busy = true) {before : List Bool}
    (htrace : s.trace = before ++ (bytesBits s.frame).take ((edgesDone s + 1) / 2)) :
    (engineEdge s).trace = before ++ (bytesBits s.frame).take ((edgesDone s + 2) / 2) := by
  cases hsclk : s.sclk with
  | false =>
    have hdone : edgesDone s = 2 * pos s := by rw [edgesDone, hsclk]; rfl
    rw [engineEdge_of_low hbusy hsclk, rise_spec, htrace, hdone, show (2 * pos s + 1) / 2 = pos s by omega,
      show (2 * pos s + 2) / 2 = pos s + 1 by omega, List.take_add_one, frame_bit_at_pos hinv hbusy, List.append_assoc]
    rfl
  | true =>
    have hdone : edgesDone s = 2 * pos s + 1 := by rw [edgesDone, hsclk]; rfl
    have hkeep : (fall s).trace = s.trace := by
      rcases fall_cases s with ⟨-, he⟩ | ⟨-, -, he⟩ | ⟨-, -, he⟩ <;> rw [he] <;> rfl
    rw [engineEdge_of_high hbusy hsclk, hkeep, htrace, hdone, show (2 * pos s + 1 + 1) / 2 = pos s + 1 by omega,
      show (2 * pos s + 1 + 2) / 2 = pos s + 1 by omega]

/-! ### Host commands -/

/-- What every command leaves: the invariant, the trace and the schedule, and in a frame all but `ERR`, `CAUSE` and the
responses (R71, R75, R76). -/
structure CommandKeeps (s t : State) : Prop where
  inv : Inv s → Inv t
  trace : t.trace = s.trace
  agenda : t.agenda = s.agenda
  inFrame : s.busy = true → ∃ e c r, t = { s with err := e, cause := c, responses := r }

theorem CommandKeeps.andRespond (r : Resp) (d : Word) (h : CommandKeeps s t) : CommandKeeps s (respond r d t) where
  inv hinv := inv_respond r d (h.inv hinv)
  trace := h.trace
  agenda := h.agenda
  inFrame hbusy := by
    obtain ⟨e, c, rs, rfl⟩ := h.inFrame hbusy
    exact ⟨e, c, _, rfl⟩

theorem commandKeeps_refl (s : State) : CommandKeeps s s := ⟨id, rfl, rfl, fun _ => ⟨_, _, _, rfl⟩⟩

theorem commandKeeps_raiseErr {c : Cause} (hc : c ≠ .none) (s : State) : CommandKeeps s (raiseErr c s) :=
  ⟨inv_raiseErr hc, rfl, rfl, fun _ => ⟨_, _, _, rfl⟩⟩

theorem commandKeeps_clearErr (s : State) : CommandKeeps s (clearErr s) :=
  ⟨inv_clearErr, rfl, rfl, fun _ => ⟨_, _, _, rfl⟩⟩

theorem commandKeeps_writeHue (idx : HueIndex) (v : HueWord) (hidle : s.busy = false) :
    CommandKeeps s (writeHue idx v s) :=
  ⟨inv_writeHue idx v hidle, rfl, rfl, fun hbusy => absurd hbusy (Bool.eq_false_iff.mp hidle)⟩

theorem commandKeeps_beginFrame (dim : Byte) (hidle : s.busy = false) : CommandKeeps s (beginFrame dim s) :=
  ⟨inv_beginFrame dim, rfl, rfl, fun hbusy => absurd hbusy (Bool.eq_false_iff.mp hidle)⟩

theorem exec_command_keeps {i : Instr} (hi : i.space = .command) (s : State) :
    ∃ t, exec i s = .next t ∧ CommandKeeps s t := by
  rcases exec_command_cases (s := s) hi with
    ⟨-, he⟩ | ⟨idx, hue, -, ⟨-, he⟩ | ⟨-, -, he⟩ | ⟨hidle, -, he⟩⟩ | ⟨dim, -, ⟨-, he⟩ | ⟨hidle, he⟩⟩ | ⟨-, he⟩ | ⟨-, he⟩
  · exact ⟨_, he, (commandKeeps_refl s).andRespond _ _⟩
  · exact ⟨_, he, commandKeeps_raiseErr (by decide) s⟩
  · exact ⟨_, he, commandKeeps_raiseErr (by decide) s⟩
  · exact ⟨_, he, (commandKeeps_writeHue idx hue hidle).andRespond _ _⟩
  · exact ⟨_, he, commandKeeps_raiseErr (by decide) s⟩
  · exact ⟨_, he, (commandKeeps_beginFrame dim hidle).andRespond _ _⟩
  · exact ⟨_, he, (commandKeeps_refl s).andRespond _ _⟩
  · exact ⟨_, he, (commandKeeps_clearErr s).andRespond _ _⟩

/-- R31, R73: a command word on the port, legal or not, is one step. -/
theorem step_command_keeps {w : Word} {rest : List Event} (hagenda : s.agenda = .command w :: rest) :
    ∃ t, step s = .next t ∧ CommandKeeps (popEvent s) t := by
  cases hdec : decodeCommand w with
  | ok i =>
    obtain ⟨t, hexec, hkeeps⟩ := exec_command_keeps (decodeCommand_space hdec) (popEvent s)
    exact ⟨t, by simp only [step, hagenda, hdec, hexec], hkeeps⟩
  | error e => exact ⟨_, step_of_rejected_command hagenda hdec, commandKeeps_raiseErr (by decide) _⟩

/-! ### The frame of one `START` -/

/-- `m` of the clock edges of the frame that `START dim` began in state `s` have happened, and not the last. -/
structure InFlight (s : State) (dim : Byte) (m : Nat) (u : State) : Prop where
  busy : u.busy = true
  cfg : u.cfg = s.cfg
  hue : u.hue = s.hue
  dlat : u.dlat = dim
  edges : edgesDone u = m

/-- What holds `m` clock edges after `START dim` in state `s`. After the last edge nothing is said of `BUSY`, since the
host may have begun another frame. -/
structure FrameSent (s : State) (dim : Byte) (m : Nat) (u : State) : Prop where
  inv : Inv u
  trace : u.trace = s.trace ++ (bytesBits (frameOf s.cfg s.hue dim)).take ((m + 1) / 2)
  inFlight : m < 2 * s.cfg.frameBits → InFlight s dim m u

variable {u : State} {dim : Byte} {m : Nat}

theorem InFlight.frame_eq (h : InFlight s dim m u) : u.frame = frameOf s.cfg s.hue dim := by
  rw [State.frame, h.cfg, h.hue, h.dlat]

theorem FrameSent.withAgenda (h : FrameSent s dim m u) (es : List Event) :
    FrameSent s dim m { u with agenda := es } where
  inv := ⟨h.inv.hueFile, h.inv.idle, h.inv.shift, h.inv.cause⟩
  trace := h.trace
  inFlight hm :=
    have hfl := h.inFlight hm
    ⟨hfl.busy, hfl.cfg, hfl.hue, hfl.dlat, hfl.edges⟩

/-- R76: an idle `START` is carried out. -/
theorem exec_start_accepted (hidle : s.busy = false) (dim : Byte) :
    exec (.start dim) s = .next (respond .ok 0 (beginFrame dim s)) := by
  simp [exec, execStart, hidle]

theorem frameSent_start (hinv : Inv s) (hidle : s.busy = false) :
    FrameSent s dim 0 (respond .ok 0 (beginFrame dim s)) where
  inv := inv_respond _ _ (inv_beginFrame dim hinv)
  trace := (List.append_nil _).symm
  inFlight _ := by
    have hsclk : s.sclk = false := (hinv.idle hidle).1
    rw [beginFrame_spec]
    exact ⟨rfl, rfl, rfl, rfl, by rw [edgesDone, pos, respond_sclk, hsclk]; rfl⟩

theorem FrameSent.command (h : FrameSent s dim m u) (hkeeps : CommandKeeps u t) : FrameSent s dim m t where
  inv := hkeeps.inv h.inv
  trace := hkeeps.trace.trans h.trace
  inFlight hm := by
    have hfl := h.inFlight hm
    obtain ⟨e, c, r, rfl⟩ := hkeeps.inFrame hfl.busy
    exact ⟨hfl.busy, hfl.cfg, hfl.hue, hfl.dlat, hfl.edges⟩

theorem FrameSent.edge (h : FrameSent s dim m u) (hm : m < 2 * s.cfg.frameBits) :
    FrameSent s dim (m + 1) (engineEdge u) where
  inv := inv_engineEdge h.inv
  trace := by
    have hfl := h.inFlight hm
    have htrace := h.trace
    rw [← hfl.frame_eq, ← hfl.edges] at htrace ⊢
    exact engineEdge_trace h.inv hfl.busy htrace
  inFlight hmore := by
    have hfl := h.inFlight hm
    obtain ⟨hbusy, hedges⟩ := engineEdge_edgesDone hfl.busy (by rwa [hfl.edges, hfl.cfg])
    rw [engineEdge_keeps u]
    exact ⟨hbusy, hfl.cfg, hfl.hue, hfl.dlat, hedges.trans (congrArg (· + 1) hfl.edges)⟩

/-- R71, R31: one event after another, a schedule without reset sends as much of the frame as it has edges. -/
theorem FrameSent.run (es : List Event) (h : FrameSent s dim m u) (hagenda : u.agenda = es)
    (hhost : hostAndEngine es = true) (hcount : m + edgeCount es ≤ 2 * s.cfg.frameBits) :
    ∃ v, Host.Core.run Sys2Proof.core es.length u = .next v ∧ FrameSent s dim (m + edgeCount es) v := by
  induction es generalizing u m with
  | nil => exact ⟨u, rfl, h⟩
  | cons e es ih =>
    have hpop : FrameSent s dim m (popEvent u) := h.withAgenda _
    have htail : (popEvent u).agenda = es := by rw [popEvent_agenda, hagenda, List.tail_cons]
    cases e with
    | command w =>
      have hes : edgeCount (.command w :: es) = edgeCount es := rfl
      obtain ⟨t, hstep, hkeeps⟩ := step_command_keeps hagenda
      rw [List.length_cons, core_run_succ hstep, hes]
      exact ih (hpop.command hkeeps) (hkeeps.agenda.trans htail) hhost (hes ▸ hcount)
    | edge =>
      have hes : m + edgeCount (.edge :: es) = m + 1 + edgeCount es := by
        simp only [edgeCount, List.countP_cons, beq_self_eq_true, if_true]
        omega
      have hedge : FrameSent s dim (m + 1) (engineEdge (popEvent u)) := hpop.edge (by omega)
      rw [List.length_cons, core_run_succ (step_edge hagenda), hes]
      exact ih hedge (by rw [engineEdge_keeps]; exact htail) hhost (hes ▸ hcount)
    | reset => exact absurd hhost (by simp [hostAndEngine])
    | record w => exact absurd hhost (by simp [hostAndEngine])

/-- Settles O35: the run is that of the schedule from the `START`, and what it leaves is read off. -/
theorem frameOnTheWireAnySchedule : Obligations.FrameOnTheWireAnySchedule := by
  unfold Obligations.FrameOnTheWireAnySchedule
  intro s t dim es hinv hidle hexec hhost hcount
  obtain rfl : respond .ok 0 (beginFrame dim s) = t :=
    Host.Outcome.next.inj ((exec_start_accepted hidle dim).symm.trans hexec)
  have hstart := (frameSent_start (dim := dim) hinv hidle).withAgenda es
  obtain ⟨u, hrun, hsent⟩ := hstart.run es rfl hhost (by rwa [Nat.zero_add])
  rw [Nat.zero_add] at hsent
  refine ⟨u, hrun, hsent.trace, fun hmissing => ?_⟩
  have hfl := hsent.inFlight hmissing
  exact ⟨hfl.busy, hfl.hue, hfl.dlat⟩

end Sys2Proof.Machine
end

section
/-! The five host commands (spec/45_host_commands.md R73 to R78): the step hands a word that decodes to `exec`, and each
command, accepted or refused, is one record update of the state. -/

namespace Sys2Proof.Machine

variable {s : State}

/-! ### The step (R73, R31) -/

theorem step_of_decoded_command {w : Word} {rest : List Event} {i : Instr} (hagenda : s.agenda = .command w :: rest)
    (hdec : decodeCommand w = .ok i) : step s = exec i (popEvent s) := by
  simp only [step, hagenda, hdec]

theorem step_of_decoded_record {w : Word} {rest : List Event} {i : Instr} (hagenda : s.agenda = .record w :: rest)
    (hdec : decodeRecord w = .ok i) : step s = exec i (popEvent s) := by
  simp only [step, hagenda, hdec]

/-- Settles O8: both kinds of event go through `exec` at the state with the event taken off. -/
theorem stepRunsDecoded : Obligations.StepRunsDecoded := by
  unfold Obligations.StepRunsDecoded
  refine fun s w rest i => ⟨fun hagenda hdec => ?_, fun hagenda hdec => ?_⟩
  · rw [step_of_decoded_command hagenda hdec, popEvent_of_agenda hagenda]
  · rw [step_of_decoded_record hagenda hdec, popEvent_of_agenda hagenda]

/-! ### The commands without operands (R74, R77, R78) -/

/-- R34, R36: format Z has one word `v` for each of its operation codes; another word with that code is illegal. -/
theorem decodeCommand_error_of_formatZ {w v : Word} (hz : v.toNat % 2 ^ 28 = 0)
    (hcode : v.toNat / 2 ^ 28 = 0 ∨ v.toNat / 2 ^ 28 = 3 ∨ v.toNat / 2 ^ 28 = 4)
    (hop : w.toNat / 2 ^ 28 = v.toNat / 2 ^ 28) (hne : w ≠ v) : ∃ e, decodeCommand w = .error e := by
  rw [decodeCommand_error_iff, illegalWord_iff]
  rw [ne_eq, ← BitVec.toNat_inj] at hne
  omega

/-- Settles O10: `NOP` is its response. -/
theorem nopEffect : Obligations.NopEffect := by
  unfold Obligations.NopEffect
  exact ⟨rfl, fun _ hop hne => decodeCommand_error_of_formatZ (v := 0) (by decide) (by decide) hop hne, fun _ => rfl⟩

/-- Settles O13: `STATUS` is its response, whose data is the `STATUS` view as a number. -/
theorem statusEffect : Obligations.StatusEffect := by
  unfold Obligations.StatusEffect
  exact ⟨rfl, fun _ hop hne => decodeCommand_error_of_formatZ (v := 0x30000000#32) (by decide) (by decide) hop hne,
    fun s => ⟨statusView s, rfl, statusView_toNat s⟩⟩

/-- Settles O14: `CLRERR` is the counterpart of the error entry and its response. -/
theorem clrerrEffect : Obligations.ClrerrEffect := by
  unfold Obligations.ClrerrEffect
  exact ⟨rfl, fun _ hop hne => decodeCommand_error_of_formatZ (v := 0x40000000#32) (by decide) (by decide) hop hne,
    fun _ => rfl⟩

/-! ### `SETHUE` (R75) -/

/-- R75, R83: the busy check comes first, so nothing is asked of `idx`. -/
theorem exec_sethue_busy (hbusy : s.busy = true) (idx : HueIndex) (hue : HueWord) :
    exec (.sethue idx hue) s = .next (raiseErr .busy s) := by
  simp [exec, execSethue, hbusy]

theorem exec_sethue_range {idx : HueIndex} (hidle : s.busy = false) (hidx : s.cfg.n.val ≤ idx.toNat)
    (hue : HueWord) : exec (.sethue idx hue) s = .next (raiseErr .range s) := by
  simp [exec, execSethue, hueInRange, hidle, Nat.not_lt.mpr hidx]

theorem hueAt_set_same {hues : List HueWord} {i : Nat} (hi : i < hues.length) (v : HueWord) :
    hueAt (hues.set i v) i = v := by
  rw [hueAt, List.getD_eq_getElem?_getD, List.getElem?_set_self hi, Option.getD_some]

theorem hueAt_set_ne (hues : List HueWord) {i j : Nat} (hne : j ≠ i) (v : HueWord) :
    hueAt (hues.set i v) j = hueAt hues j := by
  rw [hueAt, List.getD_eq_getElem?_getD, List.getElem?_set_ne hne.symm, ← List.getD_eq_getElem?_getD, hueAt]

/-- Settles O11: both refusals are the error entry; the accepted command sets one place of the hue file. -/
theorem sethueEffect : Obligations.SethueEffect := by
  unfold Obligations.SethueEffect
  refine fun s idx hue => ⟨encode_sethue_toNat idx hue, fun hbusy => ?_, fun hidle hidx => ?_,
    fun hidle hidx hlen => ⟨s.hue.set idx.toNat hue, s.written.set idx.toNat true, ?_, ?_, ?_, ?_⟩⟩
  · rw [exec_sethue_busy hbusy, raiseErr_spec]
  · rw [exec_sethue_range hidle hidx, raiseErr_spec]
  · rw [exec_sethue_accepted hidle hidx]
    rfl
  · rw [List.length_set, hlen]
  · exact hueAt_set_same (hlen ▸ hidx) hue
  · exact fun j hne => hueAt_set_ne s.hue hne hue

/-! ### `START` (R76) -/

theorem exec_start_busy (hbusy : s.busy = true) (dim : Byte) :
    exec (.start dim) s = .next (raiseErr .busy s) := by
  simp [exec, execStart, hbusy]

/-- R76, R65: the frame is determined at the `START`. -/
theorem frame_beginFrame (dim : Byte) (s : State) : (beginFrame dim s).frame = frameOf s.cfg s.hue dim := rfl

/-- Settles O12: the refusal is the error entry; the accepted command is `beginFrame`, which leaves `SCLK` as I1 of R22
has it while idle. -/
theorem startEffect : Obligations.StartEffect := by
  unfold Obligations.StartEffect
  refine fun s dim => ⟨encode_start_toNat dim, fun hbusy => ?_, fun hidle => ⟨s.blindStart || !allWritten s, ?_⟩,
    fun t hidle hinv hexec => ?_⟩
  · rw [exec_start_busy hbusy, raiseErr_spec]
  · rw [exec_start_accepted hidle, beginFrame_spec]
    rfl
  · obtain rfl : respond .ok 0 (beginFrame dim s) = t :=
      Host.Outcome.next.inj ((exec_start_accepted hidle dim).symm.trans hexec)
    have hsclk : s.sclk = false := (hinv.idle hidle).1
    exact ⟨hsclk, hsclk, frame_beginFrame dim s⟩

end Sys2Proof.Machine
end

section
/-! Errors on the command port (spec/60_exceptions.md R83, R84): the error entry is one record update; a command word
takes it at most once, with the cause that R83's order names, or is answered `OK`; and no other step raises an error. -/

namespace Sys2Proof.Machine

variable {s t : State}

/-- Settles O15: the kept cause is the first one since the last `CLRERR`. -/
theorem errorEntry : Obligations.ErrorEntry := by
  unfold Obligations.ErrorEntry
  refine fun c s _ => ⟨if s.err then s.cause else c, raiseErr_spec c s, fun herr => ?_, fun herr => ?_⟩
  · rw [herr, if_neg Bool.false_ne_true]
  · rw [if_pos herr]

/-! ### The order of the causes (R83), by classes of words -/

theorem eq_of_ite_ok_error_eq_ok {p : Prop} [Decidable p] {i j : Instr} {e : DecodeReject}
    (h : (if p then Except.ok i else Except.error e) = Except.ok j) : j = i := by
  split at h
  · exact (Except.ok.inj h).symm
  · cases h

/-- What a command word that is not illegal decodes to, by its operation code (R35). -/
theorem decodeCommand_ok_cases {w : Word} {i : Instr} (hdec : decodeCommand w = .ok i) :
    (w.toNat / 2 ^ 28 = 1 ∧ i = .sethue (idxOf w) (hueOf w)) ∨
    (w.toNat / 2 ^ 28 = 2 ∧ i = .start (dimOf w)) ∨
    (w.toNat / 2 ^ 28 ≠ 1 ∧ w.toNat / 2 ^ 28 ≠ 2 ∧ (i = .nop ∨ i = .status ∨ i = .clrerr)) := by
  rw [decodeCommand, opOf_toNat] at hdec
  split at hdec
  case h_1 hop =>
    obtain rfl := eq_of_ite_ok_error_eq_ok hdec
    exact .inr (.inr ⟨by omega, by omega, .inl rfl⟩)
  case h_2 hop => exact .inl ⟨hop, (Except.ok.inj hdec).symm⟩
  case h_3 hop => exact .inr (.inl ⟨hop, eq_of_ite_ok_error_eq_ok hdec⟩)
  case h_4 hop =>
    obtain rfl := eq_of_ite_ok_error_eq_ok hdec
    exact .inr (.inr ⟨by omega, by omega, .inr (.inl rfl)⟩)
  case h_5 hop =>
    obtain rfl := eq_of_ite_ok_error_eq_ok hdec
    exact .inr (.inr ⟨by omega, by omega, .inr (.inr rfl)⟩)
  case h_6 => cases hdec

theorem portError_of_illegal {w : Word} (hill : illegalWord w = true) (s : State) :
    portError s w = some .illegal := if_pos hill

theorem idxOf_toNat (w : Word) : (idxOf w).toNat = w.toNat / 2 ^ 16 % 2 ^ 12 := extract_toNat w 16 12

theorem portError_of_op_one {w : Word} (hlegal : illegalWord w = false) (hop : w.toNat / 2 ^ 28 = 1) (s : State) :
    portError s w =
      if s.busy then some .busy else if s.cfg.n.val ≤ (idxOf w).toNat then some .range else none := by
  simp [-Nat.reducePow, portError, hlegal, hop, idxOf_toNat]

theorem portError_of_op_two {w : Word} (hlegal : illegalWord w = false) (hop : w.toNat / 2 ^ 28 = 2) (s : State) :
    portError s w = if s.busy then some .busy else none := by
  simp [-Nat.reducePow, portError, hlegal, hop]

theorem portError_of_op_other {w : Word} (hlegal : illegalWord w = false) (hone : w.toNat / 2 ^ 28 ≠ 1)
    (htwo : w.toNat / 2 ^ 28 ≠ 2) (s : State) : portError s w = none := by
  simp [-Nat.reducePow, portError, hlegal, hone, htwo]

/-! ### What a command answers -/

/-- An error that stands after a step stood before it, with the same cause. -/
def RecordsNoError (s t : State) : Prop := t.err = true → s.err = true ∧ t.cause = s.cause

theorem recordsNoError_of_eq (herr : t.err = s.err) (hcause : t.cause = s.cause) : RecordsNoError s t :=
  fun h => ⟨herr.symm.trans h, hcause⟩

theorem recordsNoError_of_clear (herr : t.err = false) : RecordsNoError s t :=
  fun h => absurd h (Bool.eq_false_iff.mp herr)

/-- What the port makes of a command in state `s` with outcome `o`: with a cause the error entry and nothing more, with
none the answer `OK` and no error (R83, R84). -/
def PortAnswer (s : State) (o : Host.Outcome State Fault Refusal) : Option Cause → Prop
  | some c => o = .next (raiseErr c s)
  | none => ∃ t d, o = .next (respond .ok d t) ∧ t.responses = s.responses ∧ RecordsNoError s t

theorem portAnswer_sethue (idx : HueIndex) (hue : HueWord) (s : State) :
    PortAnswer s (exec (.sethue idx hue) s)
      (if s.busy then some .busy else if s.cfg.n.val ≤ idx.toNat then some .range else none) := by
  split
  next hbusy => exact exec_sethue_busy hbusy idx hue
  next hidle =>
    have hidle : s.busy = false := Bool.eq_false_iff.mpr hidle
    split
    next hidx => exact exec_sethue_range hidle hidx hue
    next hidx =>
      exact ⟨writeHue idx hue s, 0, exec_sethue_accepted hidle (Nat.lt_of_not_le hidx) hue, rfl,
        recordsNoError_of_eq rfl rfl⟩

theorem portAnswer_start (dim : Byte) (s : State) :
    PortAnswer s (exec (.start dim) s) (if s.busy then some .busy else none) := by
  split
  next hbusy => exact exec_start_busy hbusy dim
  next hidle =>
    exact ⟨beginFrame dim s, 0, exec_start_accepted (Bool.eq_false_iff.mpr hidle) dim, rfl, recordsNoError_of_eq rfl rfl⟩

/-- R74, R77, R78: the commands without operands are always accepted. -/
theorem portAnswer_formatZ {i : Instr} (hi : i = .nop ∨ i = .status ∨ i = .clrerr) (s : State) :
    PortAnswer s (exec i s) none := by
  rcases hi with rfl | rfl | rfl
  · exact ⟨s, 0, rfl, rfl, recordsNoError_of_eq rfl rfl⟩
  · exact ⟨s, statusView s, rfl, rfl, recordsNoError_of_eq rfl rfl⟩
  · exact ⟨clearErr s, 0, rfl, rfl, recordsNoError_of_clear rfl⟩

theorem portAnswer_exec {w : Word} {i : Instr} (hdec : decodeCommand w = .ok i) (s : State) :
    PortAnswer s (exec i s) (portError s w) := by
  have hlegal : illegalWord w = false := by
    rw [Bool.eq_false_iff, ne_eq, ← decodeCommand_error_iff, hdec]
    exact fun ⟨_, h⟩ => nomatch h
  rcases decodeCommand_ok_cases hdec with ⟨hop, rfl⟩ | ⟨hop, rfl⟩ | ⟨hone, htwo, hi⟩
  · rw [portError_of_op_one hlegal hop]
    exact portAnswer_sethue _ _ s
  · rw [portError_of_op_two hlegal hop]
    exact portAnswer_start _ s
  · rw [portError_of_op_other hlegal hone htwo]
    exact portAnswer_formatZ hi s

/-- R83 for the step: the decoder finds the illegal words, the command itself the other causes. -/
theorem portAnswer_step {w : Word} {rest : List Event} (hagenda : s.agenda = .command w :: rest) :
    PortAnswer (popEvent s) (step s) (portError (popEvent s) w) := by
  cases hdec : decodeCommand w with
  | ok i =>
    rw [step_of_decoded_command hagenda hdec]
    exact portAnswer_exec hdec _
  | error e =>
    rw [portError_of_illegal ((decodeCommand_error_iff w).mp ⟨e, hdec⟩)]
    exact step_of_rejected_command hagenda hdec

/-! ### The other steps -/

theorem recordsNoError_engineEdge (s : State) : RecordsNoError s (engineEdge s) :=
  recordsNoError_of_eq (by rw [engineEdge_keeps]) (by rw [engineEdge_keeps])

theorem recordsNoError_engineRun (m : Nat) (s : State) : RecordsNoError s (engineRun m s) :=
  recordsNoError_of_eq (by rw [engineRun_keeps]) (by rw [engineRun_keeps])

/-- R83: neither the engine nor reset raises an error. -/
theorem recordsNoError_step (hstep : step s = .next t) (hnot : ∀ w, s.agenda.head? ≠ some (.command w)) :
    RecordsNoError s t := by
  rcases step_cases hstep with ⟨-, ht⟩ | ⟨_, -, ht⟩ | ⟨_, -, ht⟩ | ⟨w, rest, _, hagenda, -⟩ | ⟨w, rest, _, hagenda, -⟩ |
    ⟨_, _, _, -, -, -, ht⟩
  · exact ht ▸ recordsNoError_engineEdge s
  · exact ht ▸ recordsNoError_engineEdge (popEvent s)
  · exact ht ▸ recordsNoError_of_clear rfl
  · exact absurd (congrArg List.head? hagenda) (hnot w)
  · exact absurd (congrArg List.head? hagenda) (hnot w)
  · exact ht ▸ recordsNoError_engineRun 64 (popEvent s)

/-- Settles O16: the port's answer in its two cases, and the steps that are no commands. -/
theorem errorPriority : Obligations.ErrorPriority := by
  unfold Obligations.ErrorPriority
  refine ⟨fun s w rest hagenda => ?_, fun _ _ => recordsNoError_step⟩
  have hanswer : PortAnswer (popEvent s) (step s) (portError s w) := portAnswer_step hagenda
  refine ⟨fun c herror => ?_, fun herror => ?_⟩
  · rw [herror] at hanswer
    rw [show step s = _ from hanswer, raiseErr_spec, popEvent_of_agenda hagenda]
  · rw [herror] at hanswer
    obtain ⟨t, d, hstep, hresponses, hnone⟩ := hanswer
    exact ⟨respond .ok d t, d, hstep, by rw [respond_responses, hresponses, popEvent_responses], hnone⟩

end Sys2Proof.Machine
end

section
/-! What one reset event leaves (spec/70_reset_and_hazards.md R89). -/

namespace Sys2Proof.Machine

variable {s : State}

/-- R89: reset overrides whatever else the state would do next. -/
theorem step_of_reset {rest : List Event} (hagenda : s.agenda = .reset :: rest) :
    step s = .next (resetEvent (popEvent s)) := by
  rw [step, hagenda]

/-- R18: `STATUS` reads 0 exactly while idle with no error and no cause recorded. -/
theorem statusView_eq_zero_iff (s : State) :
    statusView s = 0#32 ↔ s.busy = false ∧ s.err = false ∧ s.cause = .none := by
  rw [← BitVec.toNat_inj, statusView_toNat, ← causeCode_toNat_eq_zero_iff, ← Bool.toNat_eq_zero, ← Bool.toNat_eq_zero,
    BitVec.toNat_zero]
  omega

theorem statusView_resetEvent (s : State) : statusView (resetEvent s) = 0#32 :=
  (statusView_eq_zero_iff _).mpr ⟨resetEvent_busy s, resetEvent_err s, resetEvent_cause s⟩

/-- R89: the hue file keeps its `N` registers, whatever words they hold. -/
theorem resetEvent_hue_length (s : State) : (resetEvent s).hue.length = s.cfg.n.val := by
  rw [resetEvent_hue, List.length_map, List.length_range]

/-- Settles O21: the step is the reset event, and each element is read off it; `STATUS` is 0 because its fields are. -/
theorem resetEvent_holds : Obligations.ResetEvent := by
  unfold Obligations.ResetEvent
  intro s rest hagenda
  have hrest : (resetEvent (popEvent s)).agenda = rest := by
    rw [resetEvent_agenda, popEvent_agenda, hagenda, List.tail_cons]
  exact ⟨resetEvent (popEvent s), step_of_reset hagenda, resetEvent_busy _, resetEvent_err _, resetEvent_cause _,
    resetEvent_dlat _, resetEvent_byteIdx _, resetEvent_bitCnt _, resetEvent_shreg _, resetEvent_sclk _,
    resetEvent_mosi _, resetEvent_hue_length _, resetEvent_cfg _, statusView_resetEvent _, resetEvent_trace _, hrest⟩

end Sys2Proof.Machine
end

section
/-! Decoding and encoding are inverse to each other, in both spaces (spec/30_encoding.md R34, R35, R38, R39). -/

namespace Sys2Proof

/-! ### From the instruction to the word -/

theorem decodeCommand_encode_sethue (idx : HueIndex) (hue : HueWord) :
    decodeCommand (encode (.sethue idx hue)) = .ok (.sethue idx hue) := by
  have := idx.isLt
  have := hue.isLt
  have hidx : idxOf (encode (.sethue idx hue)) = idx := by
    rw [idxOf, extract_eq_iff, encode_sethue_toNat]
    omega
  have hhue : hueOf (encode (.sethue idx hue)) = hue := by
    rw [hueOf, extract_eq_iff, encode_sethue_toNat]
    omega
  rw [decodeCommand_of_op_one (by rw [encode_sethue_toNat]; omega), hidx, hhue]

theorem decodeCommand_encode_start (dim : Byte) : decodeCommand (encode (.start dim)) = .ok (.start dim) := by
  have := dim.isLt
  have hdim : dimOf (encode (.start dim)) = dim := by
    rw [dimOf, extract_eq_iff, encode_start_toNat]
    omega
  rw [decodeCommand_of_op_two (by rw [encode_start_toNat]; omega) (by rw [encode_start_toNat]; omega), hdim]

/-- Settles O1: the fields of each format are read back from the word; for a pixel record the flag that belongs to its
channels is what makes the word a record. -/
theorem decodeOfEncode : Obligations.DecodeOfEncode := by
  unfold Obligations.DecodeOfEncode
  intro i hwf
  cases i with
  | nop => rfl
  | sethue idx hue => exact decodeCommand_encode_sethue idx hue
  | start dim => exact decodeCommand_encode_start dim
  | status => rfl
  | clrerr => rfl
  | zerorec => rfl
  | pixrec b g r blue green red => exact decodeRecord_eq_pixrec_iff.mpr ⟨hwf, rfl⟩

/-! ### From the word to the instruction -/

/-- R34: a field that must be 0 is 0 in every word that decodes. -/
theorem field_zero_of_ite_eq_ok {w : Word} {lo len : Nat} {i j : Instr} {e : DecodeReject}
    (h : (if w.extractLsb' lo len = 0 then Except.ok i else Except.error e) = Except.ok j) :
    w.toNat / 2 ^ lo % 2 ^ len = 0 ∧ i = j := by
  split at h
  next hzero => exact ⟨(extract_eq_iff w lo len 0).mp hzero, Except.ok.inj h⟩
  · cases h

/-- R35: a command word is given by its operation code and the fields of its format. -/
theorem encode_of_decodeCommand {w : Word} {i : Instr} (hdec : decodeCommand w = .ok i) : encode i = w := by
  have := w.isLt
  apply BitVec.eq_of_toNat_eq
  rw [decodeCommand, opOf_toNat] at hdec
  split at hdec
  case h_1 hop =>
    obtain ⟨hzero, rfl⟩ := field_zero_of_ite_eq_ok hdec
    rw [show (encode .nop).toNat = 0 from rfl]
    omega
  case h_2 hop =>
    rw [← Except.ok.inj hdec, encode_sethue_toNat, idxOf, hueOf, extract_toNat, extract_toNat]
    omega
  case h_3 hop =>
    obtain ⟨hzero, rfl⟩ := field_zero_of_ite_eq_ok hdec
    rw [encode_start_toNat, dimOf, extract_toNat]
    omega
  case h_4 hop =>
    obtain ⟨hzero, rfl⟩ := field_zero_of_ite_eq_ok hdec
    rw [show (encode .status).toNat = 0x30000000 from rfl]
    omega
  case h_5 hop =>
    obtain ⟨hzero, rfl⟩ := field_zero_of_ite_eq_ok hdec
    rw [show (encode .clrerr).toNat = 0x40000000 from rfl]
    omega
  case h_6 => cases hdec

/-- Every operand of a command is legal (R35). -/
theorem wellFormed_of_command {i : Instr} (hi : i.space = .command) : i.wellFormed = true := by
  cases i with
  | zerorec => cases hi
  | pixrec => cases hi
  | _ => rfl

theorem eq_zero_of_decodeRecord_zerorec {w : Word} (hdec : decodeRecord w = .ok .zerorec) : w = 0 := by
  unfold decodeRecord at hdec
  split at hdec
  next hzero => exact hzero
  · split at hdec
    · split at hdec <;> cases hdec
    · cases hdec

/-- R38, R39: a wire word that decodes is well formed and has no other meaning. -/
theorem encode_of_decodeRecord {w : Word} {i : Instr} (hdec : decodeRecord w = .ok i) :
    i.wellFormed = true ∧ encode i = w := by
  have hspace := Machine.decodeRecord_space hdec
  cases i with
  | zerorec => exact ⟨rfl, (eq_zero_of_decodeRecord_zerorec hdec).symm⟩
  | pixrec b g r blue green red =>
    obtain ⟨hwf, hw⟩ := decodeRecord_eq_pixrec_iff.mp hdec
    exact ⟨hwf, hw.symm⟩
  | _ => cases hspace

/-- Settles O2: one decoder after the other. -/
theorem encodeOfDecode : Obligations.EncodeOfDecode := by
  unfold Obligations.EncodeOfDecode
  intro sp w i hdec
  cases sp with
  | command =>
    have hspace := Machine.decodeCommand_space hdec
    exact ⟨hspace, wellFormed_of_command hspace, encode_of_decodeCommand hdec⟩
  | wire => exact ⟨Machine.decodeRecord_space hdec, encode_of_decodeRecord hdec⟩

/-- Settles O6: twelve closed words, each decoded by computation. -/
theorem sampleWordsDecode : Obligations.SampleWordsDecode := by
  unfold Obligations.SampleWordsDecode
  decide +kernel

end Sys2Proof
end

section
/-! What a step can do, by the agent that takes it (spec/00_scope.md R11), and what follows for the invariants
(spec/10_state.md section 8), the configuration and the stops. -/

namespace Sys2Proof.Machine

variable {s t u : State}

/-! ### The invariant after power-on and reset -/

theorem inv_powerOn {c : Config} {hues : List HueWord} (hlen : hues.length = c.n.val) : Inv (State.powerOn c hues) where
  hueFile := ⟨hlen, List.length_replicate⟩
  idle _ := ⟨rfl, rfl, rfl, rfl, rfl⟩
  shift hbusy := nomatch hbusy
  cause := ⟨fun _ => rfl, fun _ => rfl⟩

/-- Settles O22: power-on is idle with no error; `State.reset` is the power-on of the scenario's unit. -/
theorem powerOnInv : Obligations.PowerOnInv := by
  unfold Obligations.PowerOnInv
  exact ⟨fun _ _ => inv_powerOn, inv_powerOn List.length_replicate⟩

/-- R89: reset leaves the power-on state of the same unit, up to bookkeeping that no invariant reads. -/
theorem inv_resetEvent (s : State) : Inv (resetEvent s) := by
  have h := inv_powerOn (c := s.cfg) (resetEvent_hue_length s)
  exact ⟨h.hueFile, h.idle, h.shift, h.cause⟩

/-! ### One command -/

/-- What an accepted command makes of the state before it answers (R74 to R78). -/
inductive Accepted (s : State) : Instr → State → Prop
  | nop : Accepted s .nop s
  | sethue (idx : HueIndex) (hue : HueWord) : s.busy = false → idx.toNat < s.cfg.n.val →
      Accepted s (.sethue idx hue) (writeHue idx hue s)
  | start (dim : Byte) : s.busy = false → Accepted s (.start dim) (beginFrame dim s)
  | status : Accepted s .status s
  | clrerr : Accepted s .clrerr (clearErr s)

/-- A command is refused by the error entry, or accepted and answered `OK` (R37, R84). -/
theorem exec_command_outcome {i : Instr} (hi : i.space = .command) (s : State) :
    (∃ c, exec i s = .next (raiseErr c s)) ∨ ∃ d u, exec i s = .next (respond .ok d u) ∧ Accepted s i u := by
  rcases exec_command_cases (s := s) hi with
    ⟨rfl, he⟩ | ⟨idx, hue, rfl, ⟨-, he⟩ | ⟨-, -, he⟩ | ⟨hidle, hidx, he⟩⟩ | ⟨dim, rfl, ⟨-, he⟩ | ⟨hidle, he⟩⟩ |
    ⟨rfl, he⟩ | ⟨rfl, he⟩
  · exact .inr ⟨_, _, he, .nop⟩
  · exact .inl ⟨_, he⟩
  · exact .inl ⟨_, he⟩
  · exact .inr ⟨_, _, he, .sethue idx hue hidle hidx⟩
  · exact .inl ⟨_, he⟩
  · exact .inr ⟨_, _, he, .start dim hidle⟩
  · exact .inr ⟨_, _, he, .status⟩
  · exact .inr ⟨_, _, he, .clrerr⟩

/-- No command touches the configuration, the clock line, the trace or the responses already given. -/
theorem Accepted.keeps {i : Instr} (h : Accepted s i u) :
    u.cfg = s.cfg ∧ u.sclk = s.sclk ∧ u.trace = s.trace ∧ u.earlier = s.earlier ∧ u.responses = s.responses := by
  cases h <;> exact ⟨rfl, rfl, rfl, rfl, rfl⟩

/-- Settles O17: only the error entry answers `REFUSED`, and that is all it does. -/
theorem refusedChangesNothingElse : Obligations.RefusedChangesNothingElse := by
  unfold Obligations.RefusedChangesNothingElse
  intro i s t d hi hexec hrefused
  rcases exec_command_outcome hi s with ⟨c, he⟩ | ⟨d', u, he, hacc⟩
  · obtain rfl : raiseErr c s = t := Host.Outcome.next.inj (he.symm.trans hexec)
    rw [raiseErr_responses] at hrefused
    have hd : (0 : Word) = d := by simpa using hrefused
    exact ⟨hd.symm, raiseErr_spec c s⟩
  · obtain rfl : respond .ok d' u = t := Host.Outcome.next.inj (he.symm.trans hexec)
    obtain ⟨-, -, -, -, hresponses⟩ := hacc.keeps
    rw [respond_responses, hresponses] at hrefused
    simp at hrefused

/-! ### One step -/

theorem step_of_empty (hs : s.agenda = []) : step s = .next (engineEdge s) := by
  rw [step, hs]

theorem popEvent_of_empty (hs : s.agenda = []) : popEvent s = s := by
  rw [popEvent, hs, List.tail_nil, ← hs]

/-- The schedule leaves the next step to the engine: one clock edge, or a whole record. -/
def EngineTurn (s : State) : Prop :=
  s.agenda.head? = none ∨ s.agenda.head? = some .edge ∨ ∃ w, s.agenda.head? = some (.record w)

/-- Everything a step that gives a next state can do, by the agent: the engine takes clock edges, reset is asserted, the
port refuses a word, or it accepts one. -/
theorem step_agent_cases (hstep : step s = .next t) :
    (EngineTurn s ∧ ∃ m, t = engineRun m (popEvent s)) ∨
    (s.agenda.head? = some .reset ∧ t = resetEvent (popEvent s)) ∨
    (∃ w, s.agenda.head? = some (.command w) ∧ CommandKeeps (popEvent s) t ∧
      ((∃ c, t = raiseErr c (popEvent s)) ∨
       ∃ i d u, encode i = w ∧ t = respond .ok d u ∧ Accepted (popEvent s) i u)) := by
  have hkeeps {w : Word} {rest : List Event} (hs : s.agenda = .command w :: rest) : CommandKeeps (popEvent s) t := by
    obtain ⟨t', hstep', hkeeps⟩ := step_command_keeps hs
    obtain rfl := Host.Outcome.next.inj (hstep'.symm.trans hstep)
    exact hkeeps
  have hhead {e : Event} {rest : List Event} (hs : s.agenda = e :: rest) : s.agenda.head? = some e := by
    rw [hs, List.head?_cons]
  rcases step_cases hstep with ⟨hs, ht⟩ | ⟨_, hs, ht⟩ | ⟨_, hs, ht⟩ | ⟨w, _, i, hs, hdec, hexec⟩ | ⟨w, _, _, hs, -, ht⟩ |
    ⟨w, _, _, hs, -, -, ht⟩
  · refine .inl ⟨.inl (by rw [hs, List.head?_nil]), 1, ?_⟩
    rw [popEvent_of_empty hs]
    exact ht
  · exact .inl ⟨.inr (.inl (hhead hs)), 1, ht⟩
  · exact .inr (.inl ⟨hhead hs, ht⟩)
  · refine .inr (.inr ⟨w, hhead hs, hkeeps hs, ?_⟩)
    rcases exec_command_outcome (decodeCommand_space hdec) (popEvent s) with ⟨c, he⟩ | ⟨d, u, he, hacc⟩
    · exact .inl ⟨c, (Host.Outcome.next.inj (he.symm.trans hexec)).symm⟩
    · exact .inr ⟨i, d, u, encode_of_decodeCommand hdec, (Host.Outcome.next.inj (he.symm.trans hexec)).symm, hacc⟩
  · exact .inr (.inr ⟨w, hhead hs, hkeeps hs, .inl ⟨_, ht⟩⟩)
  · exact .inl ⟨.inr (.inr ⟨w, hhead hs⟩), 64, ht⟩

/-- Settles O23: each agent keeps the invariant, and reset establishes it. -/
theorem stepKeepsInv : Obligations.StepKeepsInv := by
  unfold Obligations.StepKeepsInv
  intro s t hinv hstep
  rcases step_agent_cases hstep with ⟨-, m, ht⟩ | ⟨-, ht⟩ | ⟨_, -, hkeeps, -⟩
  · exact ht ▸ inv_engineRun m (inv_popEvent hinv)
  · exact ht ▸ inv_resetEvent _
  · exact hkeeps.inv (inv_popEvent hinv)

/-- What the frame is made of, `HUE`, `DLAT` and the configuration, the engine only reads (R65). -/
theorem engineRun_frozen (m : Nat) (s : State) :
    (engineRun m s).hue = s.hue ∧ (engineRun m s).dlat = s.dlat ∧ (engineRun m s).cfg = s.cfg := by
  rw [engineRun_keeps]
  exact ⟨rfl, rfl, rfl⟩

/-- Settles O24: the engine only reads what the frame is made of, and in a frame a command writes `ERR`, `CAUSE` and the
responses alone. -/
theorem frameFrozenWhileBusy : Obligations.FrameFrozenWhileBusy := by
  unfold Obligations.FrameFrozenWhileBusy
  intro s t hbusy hnoreset hstep
  have hfrozen : t.hue = s.hue ∧ t.dlat = s.dlat ∧ t.cfg = s.cfg := by
    rcases step_agent_cases hstep with ⟨-, m, ht⟩ | ⟨hreset, -⟩ | ⟨_, -, hkeeps, -⟩
    · exact ht ▸ engineRun_frozen m (popEvent s)
    · exact absurd hreset hnoreset
    · obtain ⟨_, _, _, rfl⟩ := hkeeps.inFrame hbusy
      exact ⟨rfl, rfl, rfl⟩
  obtain ⟨hhue, hdlat, hcfg⟩ := hfrozen
  refine ⟨hhue, hdlat, hcfg, fun k => ?_⟩
  rw [State.frameByte, hcfg, hhue, hdlat, State.frameByte]

/-- Settles O25: none of the agents writes the configuration. -/
theorem configurationConstant : Obligations.ConfigurationConstant := by
  unfold Obligations.ConfigurationConstant
  intro s t hstep
  rcases step_agent_cases hstep with ⟨-, m, ht⟩ | ⟨-, ht⟩ | ⟨_, -, -, ⟨_, ht⟩ | ⟨_, _, _, -, ht, hacc⟩⟩
  · obtain ⟨-, -, hcfg⟩ := engineRun_frozen m (popEvent s)
    rw [ht, hcfg, popEvent_cfg]
  · rw [ht, resetEvent_cfg, popEvent_cfg]
  · rw [ht, raiseErr_cfg, popEvent_cfg]
  · obtain ⟨hcfg, -⟩ := hacc.keeps
    rw [ht, respond_cfg, hcfg, popEvent_cfg]

/-! ### The stops (log entry 8) -/

/-- A scheduled record is sent where it is due, and else stops by name. -/
theorem step_of_record {w : Word} {rest : List Event} {i : Instr} (hs : s.agenda = .record w :: rest)
    (hdec : decodeRecord w = .ok i) : step s = sendRecord w (popEvent s) := by
  obtain ⟨-, hencode⟩ := encode_of_decodeRecord hdec
  rw [step_of_decoded_record hs hdec, exec_record (decodeRecord_space hdec), hencode]

theorem step_of_no_record {w : Word} {rest : List Event} {e : DecodeReject} (hs : s.agenda = .record w :: rest)
    (hdec : decodeRecord w = .error e) : step s = .refused .notARecord := by
  simp only [step, hs, hdec]

theorem step_of_record_not_due {w : Word} {rest : List Event} {i : Instr} (hs : s.agenda = .record w :: rest)
    (hdec : decodeRecord w = .ok i) (hdue : dueRecord s ≠ some w) : step s = .fault .recordNotDue := by
  rw [step_of_record hs hdec, sendRecord]
  exact if_neg hdue

/-- Everything a step can end in: a next state, or one of two stops at a record. -/
theorem step_outcome_cases (s : State) :
    (∃ t, step s = .next t) ∨
    (step s = .refused .notARecord ∧ ∃ w rest, s.agenda = .record w :: rest ∧ ∃ e, decodeRecord w = .error e) ∨
    (step s = .fault .recordNotDue ∧ ∃ w rest, s.agenda = .record w :: rest ∧
      (∃ i, decodeRecord w = .ok i) ∧ dueRecord s ≠ some w) := by
  cases hs : s.agenda with
  | nil => exact .inl ⟨_, step_of_empty hs⟩
  | cons event rest =>
    cases event with
    | edge => exact .inl ⟨_, step_edge hs⟩
    | reset => exact .inl ⟨_, step_of_reset hs⟩
    | command w =>
      obtain ⟨t, hstep, -⟩ := step_command_keeps hs
      exact .inl ⟨t, hstep⟩
    | record w =>
      cases hdec : decodeRecord w with
      | error e => exact .inr (.inl ⟨step_of_no_record hs hdec, w, rest, rfl, e, hdec⟩)
      | ok i =>
        rcases sendRecord_cases w (popEvent s) with ⟨-, hsend⟩ | ⟨hdue, hsend⟩
        · exact .inl ⟨_, (step_of_record hs hdec).trans hsend⟩
        · exact .inr (.inr ⟨(step_of_record hs hdec).trans hsend, w, rest, rfl, ⟨i, hdec⟩, hdue⟩)

/-- Settles O9: a stop is one of the two, and each condition on the record brings its own. -/
theorem stopsOnlyAtRecords : Obligations.StopsOnlyAtRecords := by
  unfold Obligations.StopsOnlyAtRecords
  refine fun s => ⟨fun r => ⟨fun hrefused => ?_, ?_⟩, fun f => ⟨fun hfault => ?_, ?_⟩⟩
  · rcases step_outcome_cases s with ⟨t, hstep⟩ | ⟨hstep, hrecord⟩ | ⟨hstep, -⟩ <;> rw [hstep] at hrefused
    · cases hrefused
    · exact ⟨(Host.Outcome.refused.inj hrefused).symm, hrecord⟩
    · cases hrefused
  · rintro ⟨rfl, w, rest, hs, e, hdec⟩
    exact step_of_no_record hs hdec
  · rcases step_outcome_cases s with ⟨t, hstep⟩ | ⟨hstep, -⟩ | ⟨hstep, hrecord⟩ <;> rw [hstep] at hfault
    · cases hfault
    · cases hfault
    · exact ⟨(Host.Outcome.fault.inj hfault).symm, hrecord⟩
  · rintro ⟨rfl, w, rest, hs, ⟨i, hdec⟩, hdue⟩
    exact step_of_record_not_due hs hdec hdue

end Sys2Proof.Machine
end

section
/-! Pixel records as `PIXENC` makes them (spec/42_pixel_encoder.md R58 to R61, spec/30_encoding.md R38), and what the
tables of a legal unit make of black and white (spec/40_gamma_lut.md R44, R45). -/

namespace Sys2Proof.Machine

/-! ### The channels (R58, R61(d)) -/

@[simp] theorem pixenc_red (c : Config) (raw : Rgb Byte) : (pixenc c raw).red = glutRd c .red raw.r := rfl
@[simp] theorem pixenc_green (c : Config) (raw : Rgb Byte) : (pixenc c raw).green = glutRd c .green raw.g := rfl
@[simp] theorem pixenc_blue (c : Config) (raw : Rgb Byte) : (pixenc c raw).blue = glutRd c .blue raw.b := rfl

/-- A field of a byte as a quotient and remainder. -/
theorem byteField_toNat (x : Byte) (lo len : Nat) : (x.extractLsb' lo len).toNat = x.toNat / 2 ^ lo % 2 ^ len := by
  rw [BitVec.extractLsb'_toNat, Nat.shiftRight_eq_div_pow]

/-- Settles O51: the bytes are looked up apart; of the flag as a number, the digits of the other channels are the same. -/
theorem channelsIndependent : Obligations.ChannelsIndependent := by
  unfold Obligations.ChannelsIndependent
  intro c r g b x p
  have := (glutRd c .red r).isLt
  have := (glutRd c .green g).isLt
  have := (glutRd c .blue b).isLt
  have := (glutRd c .red x).isLt
  have := (glutRd c .green x).isLt
  have := (glutRd c .blue x).isLt
  refine ⟨⟨rfl, rfl, ?_⟩, ⟨rfl, rfl, ?_, ?_⟩, rfl, rfl, ?_, ?_⟩
  all_goals
    apply BitVec.eq_of_toNat_eq
    simp only [p, byteField_toNat, pixenc_flag_toNat, pixenc_red, pixenc_green, pixenc_blue]
    omega

/-! ### The record as a word (R38, R39, R59) -/

/-- R59, R60: the flag of `PIXENC` is the flag that belongs to its channels. -/
theorem pixenc_word (c : Config) (raw : Rgb Byte) :
    (pixenc c raw).word = encode (pixelRecord (pixenc c raw).blue (pixenc c raw).green (pixenc c raw).red) := by
  have := (pixenc c raw).blue.isLt
  have := (pixenc c raw).green.isLt
  have := (pixenc c raw).red.isLt
  apply BitVec.eq_of_toNat_eq
  rw [Pixel.word, wordOfBytes_toNat, pixelRecord, encode_pixrec_toNat, pixenc_flag_toNat, not_top2_toNat, not_top2_toNat,
    not_top2_toNat]
  omega

/-- Settles O52: the word is that of the pixel record of the corrected channels. -/
theorem pixencIsPixelRecord : Obligations.PixencIsPixelRecord := by
  unfold Obligations.PixencIsPixelRecord
  intro c raw p
  have hword : p.word = encode (pixelRecord p.blue p.green p.red) := pixenc_word c raw
  refine ⟨rfl, rfl, rfl, ?_, ?_⟩
  · rw [hword, decodeRecord_encode_pixelRecord]
    rfl
  · rw [hword]
    exact encode_pixrec_ne_zero _ _ _ _ _ _

/-! ### Black and white (R61(a), (b)) -/

/-- A table that sends level 0 to 0 and level 255 to 255. -/
def KeepsEnds (t : Table) : Prop := t[0] = 0 ∧ t[255] = 255

theorem gammaTable_entry {g : ℝ} {t : Table} {i y : Nat} (hg : 0 < g) (ht : GammaTable g t) (hi : i < 256)
    (hy : GammaEntry g i y) : t[i].toNat = y :=
  (existsUnique_gammaEntry hg (Nat.le_of_lt_succ hi)).unique (ht ⟨i, hi⟩) hy

theorem keepsEnds_of_gammaTable {g : ℝ} {t : Table} (hg : 0 < g) (ht : GammaTable g t) : KeepsEnds t := by
  have hzero : GammaEntry g 0 0 := gammaEntry_of_curve_eq hg (by decide) (gammaCurve_zero hg)
  have htop : GammaEntry g 255 255 := gammaEntry_of_curve_eq hg le_rfl (gammaCurve_top g)
  exact ⟨BitVec.eq_of_toNat_eq (gammaTable_entry hg ht (by decide) hzero),
    BitVec.eq_of_toNat_eq (gammaTable_entry hg ht (by decide) htop)⟩

/-- R45, R61: whether or not the exponents change places, each table is that of a positive exponent. -/
theorem keepsEnds_of_built {c : Config} (hc : c.Built) : KeepsEnds c.glutR ∧ KeepsEnds c.glutG ∧ KeepsEnds c.glutB := by
  obtain ⟨gR, gG, gB, hR, hG, hB, hred, hrest⟩ := hc
  refine ⟨keepsEnds_of_gammaTable hR hred, ?_⟩
  split at hrest
  · exact ⟨keepsEnds_of_gammaTable hB hrest.1, keepsEnds_of_gammaTable hG hrest.2⟩
  · exact ⟨keepsEnds_of_gammaTable hG hrest.1, keepsEnds_of_gammaTable hB hrest.2⟩

/-- Settles O53: the corrected channels are the ends of the tables, and the flag is computed from them. -/
theorem blackAndWhite : Obligations.BlackAndWhite := by
  unfold Obligations.BlackAndWhite
  intro c hc
  obtain ⟨⟨hR0, hR255⟩, ⟨hG0, hG255⟩, ⟨hB0, hB255⟩⟩ := keepsEnds_of_built hc
  have hblack : glutRd c .red 0 = 0 ∧ glutRd c .green 0 = 0 ∧ glutRd c .blue 0 = 0 := ⟨hR0, hG0, hB0⟩
  have hwhite : glutRd c .red 255 = 255 ∧ glutRd c .green 255 = 255 ∧ glutRd c .blue 255 = 255 :=
    ⟨hR255, hG255, hB255⟩
  simp only [pixenc, hblack, hwhite]
  decide

/-- R57, R65: at dimming factor 0 every raw colour is black. -/
theorem rawColour_dim_zero (c : Config) (h : HueWord) : rawColour c h 0 = ⟨0, 0, 0⟩ := by
  simp only [rawColour, scale8_zero]

/-- Settles O55: every pixel of the frame is black. -/
theorem lightsOffFrame : Obligations.LightsOffFrame := by
  unfold Obligations.LightsOffFrame
  intro c hues hc
  have hpixel (i : Nat) : (pixelOf c hues 0 i).bytes = [0xFF, 0x00, 0x00, 0x00] := by
    rw [pixelOf, rawColour_dim_zero, (blackAndWhite c hc).1]
    rfl
  simp only [frameOf_eq_append, hpixel, List.flatMap_def, List.map_const', List.length_range]
  rfl

end Sys2Proof.Machine
end

section
/-! Whole records (spec/30_encoding.md R38 to R40, spec/44_serializer.md R70, R71; log entry 8): a record is four bytes of
sixteen edges each, and the record the engine is about to send is the next four bytes of its frame. -/

namespace Sys2Proof.Machine

variable {s : State}

/-! ### Sending bytes -/

/-- The state with the engine before the first edge of byte `k` of its frame. -/
def beforeByte (k : Nat) (s : State) : State :=
  { s with
    byteIdx := BitVec.ofNat 15 k
    shreg := s.frameByte k
    mosi := (s.frameByte k).getLsbD 7 }

/-- The state with the bits of these bytes appended to the trace. -/
def sendBytes (bs : List Byte) (s : State) : State := { s with trace := s.trace ++ bytesBits bs }

@[simp] theorem sendBytes_cfg (bs : List Byte) (s : State) : (sendBytes bs s).cfg = s.cfg := rfl

theorem byteIdx_beforeByte {k : Nat} (hk : k < s.cfg.frameBytes) : (beforeByte k s).byteIdx.toNat = k := by
  have := s.cfg.n.isLt
  unfold Config.frameBytes at hk
  rw [beforeByte, BitVec.toNat_ofNat, Nat.mod_eq_of_lt (by omega)]

/-- R70: a byte that is not the last takes the engine to the next one. -/
theorem engineRun_beforeByte {k : Nat} (hbusy : s.busy = true) (hsclk : s.sclk = false) (hbit : s.bitCnt = 0)
    (hk : k + 1 < s.cfg.frameBytes) :
    engineRun 16 (beforeByte k s) = beforeByte (k + 1) (sendBytes [s.frameByte k] s) := by
  have hidx := byteIdx_beforeByte (s := s) (Nat.lt_of_succ_lt hk)
  rw [engineRun_byte (s := beforeByte k s) hbusy hsclk hbit rfl (by rw [hidx]; exact hk), hidx]
  simp only [beforeByte, sendBytes, BitVec.ofNat_add, bytesBits, List.flatMap_cons, List.flatMap_nil, List.append_nil]
  rfl

/-- R70: one byte after another. -/
theorem engineRun_bytes {k m : Nat} (hbusy : s.busy = true) (hsclk : s.sclk = false) (hbit : s.bitCnt = 0)
    (hk : k + m < s.cfg.frameBytes) :
    engineRun (16 * m) (beforeByte k s) =
      beforeByte (k + m) (sendBytes ((List.range m).map fun j => s.frameByte (k + j)) s) := by
  induction m with
  | zero => simp [engineRun, sendBytes, bytesBits]
  | succ m ih =>
    rw [Nat.mul_succ, engineRun_add, ih (Nat.lt_of_succ_lt hk),
      engineRun_beforeByte (k := k + m) (s := sendBytes _ s) hbusy hsclk hbit hk]
    simp only [sendBytes, List.range_succ, List.map_append, bytesBits_append, List.append_assoc]
    rfl

/-- R70, R71: the last byte of the frame leaves the block idle. -/
theorem engineRun_beforeByte_last {k : Nat} (hbusy : s.busy = true) (hsclk : s.sclk = false) (hbit : s.bitCnt = 0)
    (hk : k + 1 = s.cfg.frameBytes) :
    engineRun 16 (beforeByte k s) =
      { sendBytes [s.frameByte k] s with busy := false, byteIdx := 0, shreg := 0, mosi := false } := by
  have hidx := byteIdx_beforeByte (s := s) (by omega : k < s.cfg.frameBytes)
  rw [engineRun_lastByte (s := beforeByte k s) hbusy hsclk hbit rfl (by rw [hidx]; exact hk.ge)]
  simp only [beforeByte, sendBytes, bytesBits, List.flatMap_cons, List.flatMap_nil, List.append_nil]

/-! ### The record at a place of the frame -/

/-- Record `r` of the frame as one word (R26, R40). -/
def recordWord (s : State) (r : Nat) : Word :=
  wordOfBytes (s.frameByte (4 * r)) (s.frameByte (4 * r + 1)) (s.frameByte (4 * r + 2)) (s.frameByte (4 * r + 3))

theorem wordBytes_recordWord (s : State) (r : Nat) :
    wordBytes (recordWord s r) = (List.range 4).map fun j => s.frameByte (4 * r + j) := by
  rw [recordWord, wordBytes_wordOfBytes]
  rfl

theorem atRecord_lt {r : Nat} (h : atRecord s r) : r < s.cfg.n.val + 3 := by
  obtain ⟨hinv, hbusy, -, -, hidx⟩ := h
  have hlt := (hinv.shift hbusy).1
  unfold Config.frameBytes at hlt
  omega

/-- I2 of R22 at the start of a byte. -/
theorem eq_beforeByte_of_atRecord {r : Nat} (h : atRecord s r) : s = beforeByte (4 * r) s := by
  obtain ⟨hinv, hbusy, -, hbit, hidx⟩ := h
  obtain ⟨-, hshreg, hmosi⟩ := hinv.shift hbusy
  have hbyte : s.shreg = s.frameByte (4 * r) := by
    rw [hshreg, hbit, hidx]
    exact BitVec.shiftLeft_zero _
  rw [beforeByte, ← hbyte, ← hmosi, ← hidx, BitVec.ofNat_toNat, BitVec.setWidth_eq]

/-- R71: what 64 edges do from the start of a record. -/
theorem engineRun_of_atRecord {r : Nat} (h : atRecord s r) : engineRun 64 s = afterRecord (recordWord s r) r s := by
  have hlt := atRecord_lt h
  have hstart := eq_beforeByte_of_atRecord h
  obtain ⟨-, hbusy, hsclk, hbit, -⟩ := h
  have hbytes : wordBytes (recordWord s r) =
      ((List.range 3).map fun j => s.frameByte (4 * r + j)) ++ [s.frameByte (4 * r + 3)] := wordBytes_recordWord s r
  have hframe : s.cfg.frameBytes = 4 * (s.cfg.n.val + 3) := rfl
  have hthree := engineRun_bytes (k := 4 * r) (m := 3) hbusy hsclk hbit (by omega)
  rw [show 64 = 16 * 3 + 16 from rfl, engineRun_add]
  nth_rw 1 [hstart]
  rw [hthree, afterRecord]
  split
  next hmore =>
    rw [engineRun_beforeByte (s := sendBytes _ s) hbusy hsclk hbit (by rw [sendBytes_cfg]; omega)]
    simp only [hbytes, bytesBits_append, sendBytes, List.append_assoc]
    rfl
  next hlast =>
    rw [engineRun_beforeByte_last (s := sendBytes _ s) hbusy hsclk hbit (by rw [sendBytes_cfg]; omega)]
    simp only [hbytes, bytesBits_append, sendBytes, List.append_assoc]
    rfl

theorem dueRecord_of_atRecord {r : Nat} (h : atRecord s r) : dueRecord s = some (recordWord s r) := by
  have hlt := atRecord_lt h
  have hstart := eq_beforeByte_of_atRecord h
  obtain ⟨hinv, hbusy, hsclk, hbit, hidx⟩ := h
  have hshreg : s.shreg = s.frameByte (4 * r) := congrArg State.shreg hstart
  obtain ⟨-, -, hmosi⟩ := hinv.shift hbusy
  refine dueRecord_eq_some.mpr ⟨⟨hbusy, hsclk, hbit, hmosi, by omega, ?_⟩, ?_⟩
  · unfold Config.frameBytes
    omega
  · rw [hshreg, hidx, recordWord]

/-- Only at the start of a record is one due. -/
theorem atRecord_of_dueRecord {w : Word} (hinv : Inv s) (hdue : dueRecord s = some w) :
    ∃ r, atRecord s r ∧ w = recordWord s r := by
  obtain ⟨⟨hbusy, hsclk, hbit, -, hmod, -⟩, -⟩ := dueRecord_eq_some.mp hdue
  have hat : atRecord s (s.byteIdx.toNat / 4) := ⟨hinv, hbusy, hsclk, hbit, by omega⟩
  exact ⟨_, hat, Option.some.inj (hdue.symm.trans (dueRecord_of_atRecord hat))⟩

/-- R71: the record at the engine's place is sent. -/
theorem sendRecord_of_atRecord {r : Nat} (h : atRecord s r) :
    sendRecord (recordWord s r) s = .next (afterRecord (recordWord s r) r s) := by
  rw [sendRecord, if_pos (dueRecord_of_atRecord h), engineRun_of_atRecord h]

/-! ### The two classes of records -/

/-- R40, R64: the records 0, `N + 1` and `N + 2` are zero records. -/
theorem recordWord_eq_zero {r : Nat} (hr : r = 0 ∨ s.cfg.n.val + 1 ≤ r) : recordWord s r = 0 := by
  have hzero (j : Nat) (hj : j < 4) : s.frameByte (4 * r + j) = 0 := by
    rcases hr with rfl | hr
    · exact frameByte_start _ _ _ (by omega)
    · exact frameByte_end _ _ _ (by omega)
  rw [recordWord, show s.frameByte (4 * r) = 0 from hzero 0 (by decide), hzero 1 (by decide), hzero 2 (by decide),
    hzero 3 (by decide)]
  rfl

/-- R63, R64: record `i + 1` is that of pixel `i`. -/
theorem recordWord_pixel {i : Nat} (hi : i < s.cfg.n.val) :
    recordWord s (i + 1) = (pixelOf s.cfg s.hue s.dlat i).word := by
  have hbyte (j : Nat) (hj : j < 4) : s.frameByte (4 * (i + 1) + j) = (pixelOf s.cfg s.hue s.dlat i).byte j := by
    rw [show 4 * (i + 1) + j = 4 + (4 * i + j) by omega]
    exact frameByte_pixel _ _ _ hi hj
  rw [recordWord, show s.frameByte (4 * (i + 1)) = _ from hbyte 0 (by decide), hbyte 1 (by decide),
    hbyte 2 (by decide), hbyte 3 (by decide)]
  rfl

/-- Settles O37: at these places the record due is the zero record. -/
theorem zerorecCompletes : Obligations.ZerorecCompletes := by
  unfold Obligations.ZerorecCompletes
  intro s r hat hr
  have hword : recordWord s r = encode .zerorec := recordWord_eq_zero (by omega)
  refine ⟨?_, rfl⟩
  rw [exec_record rfl, ← hword, sendRecord_of_atRecord hat, hword]
  rfl

/-- Settles O38: at this place the record due is that of the pixel, and its word is the encoding of the operands. -/
theorem pixrecCompletes : Obligations.PixrecCompletes := by
  unfold Obligations.PixrecCompletes
  intro s i p hat hi hp
  refine ⟨?_, wordBytes_wordOfBytes ..⟩
  have hdue : recordWord s (i + 1) = p.word := hp ▸ recordWord_pixel hi
  have hword : p.word = encode (pixelRecord p.blue p.green p.red) := hp ▸ pixenc_word ..
  change exec (pixelRecord p.blue p.green p.red) s = _
  rw [exec_record rfl, ← hword, ← hdue, sendRecord_of_atRecord hat]

/-- Settles O39: no record is due off a boundary, and at a boundary none but the frame's. -/
theorem recordNotDueStops : Obligations.RecordNotDueStops := by
  unfold Obligations.RecordNotDueStops
  intro s i hi hstop
  have hnot : dueRecord s ≠ some (encode i) := by
    intro hdue
    obtain ⟨⟨hbusy, hsclk, hbit, -, hmod, -⟩, -⟩ := dueRecord_eq_some.mp hdue
    rcases hstop with hidle | hhigh | hinside | hoff | ⟨r, hat, hother⟩
    · exact absurd hbusy (Bool.eq_false_iff.mp hidle)
    · exact absurd hhigh (Bool.eq_false_iff.mp hsclk)
    · exact hinside hbit
    · exact hoff hmod
    · have hword : recordWord s r = encode i := Option.some.inj ((dueRecord_of_atRecord hat).symm.trans hdue)
      exact hother (hword ▸ wordBytes_recordWord s r)
  rw [exec_record hi, sendRecord, if_neg hnot]

end Sys2Proof.Machine
end

section
/-! What changes the hue registers and `BUSY`, what a sample is, and the marks of U1 (spec/10_state.md R15 to R17,
spec/00_scope.md R12, spec/44_serializer.md R67). -/

namespace Sys2Proof.Machine

variable {s t u : State}

/-- R67: while idle the engine has no step. -/
theorem engineEdge_of_idle (hidle : s.busy = false) : engineEdge s = s := by
  rw [engineEdge, hidle]
  rfl

theorem engineRun_of_idle (m : Nat) (hidle : s.busy = false) : engineRun m s = s := by
  induction m with
  | zero => rfl
  | succ m ih => rw [engineRun, engineEdge_of_idle hidle, ih]

/-! ### The hue file (R15) -/

/-- Where a write to the hue file shows, it shows its value at its index. -/
theorem eq_of_hueAt_set_ne {hues : List HueWord} {i j : Nat} {v : HueWord}
    (hne : hueAt (hues.set i v) j ≠ hueAt hues j) : j = i ∧ hueAt (hues.set i v) j = v := by
  have hj : j = i := by
    by_contra h
    exact hne (hueAt_set_ne hues h v)
  subst hj
  have hlen : j < hues.length := by
    by_contra h
    exact hne (by rw [List.set_eq_of_length_le (Nat.le_of_not_lt h)])
  exact ⟨rfl, hueAt_set_same hlen v⟩

/-- Settles O27: of all that the agents do, only an accepted `SETHUE` and reset write the hue file. -/
theorem hueOnlyBySethue : Obligations.HueOnlyBySethue := by
  unfold Obligations.HueOnlyBySethue
  intro s t j hstep hne
  rcases step_agent_cases hstep with ⟨-, m, rfl⟩ | ⟨hreset, -⟩ | ⟨w, hhead, -, ⟨_, rfl⟩ | ⟨i, d, u, hw, rfl, hacc⟩⟩
  · obtain ⟨hhue, -⟩ := engineRun_frozen m (popEvent s)
    exact absurd (congrArg (hueAt · j) hhue) hne
  · exact .inl hreset
  · exact absurd rfl hne
  · cases hacc with
    | sethue idx hue hidle hidx =>
      obtain ⟨hj, hvalue⟩ := eq_of_hueAt_set_ne hne
      exact .inr ⟨idx, hue, hw ▸ hhead, hidle, hidx, hj, hvalue⟩
    | _ => exact absurd rfl hne

/-! ### `BUSY` (R17) -/

/-- R17, R76: while idle only an accepted `START` sets `BUSY`. -/
theorem start_of_busy_set (hstep : step s = .next t) (hidle : s.busy = false) (hset : t.busy = true) :
    ∃ dim : Byte, s.agenda.head? = some (.command (encode (.start dim))) ∧ t.dlat = dim := by
  have hkept : t.busy ≠ s.busy := by rw [hidle, hset]; decide
  rcases step_agent_cases hstep with ⟨-, m, rfl⟩ | ⟨-, rfl⟩ | ⟨w, hhead, -, ⟨_, rfl⟩ | ⟨i, d, u, hw, rfl, hacc⟩⟩
  · exact absurd (congrArg State.busy (engineRun_of_idle (s := popEvent s) m hidle)) hkept
  · exact absurd hset Bool.false_ne_true
  · exact absurd rfl hkept
  · cases hacc with
    | start dim => exact ⟨dim, hw ▸ hhead, rfl⟩
    | _ => exact absurd rfl hkept

/-- R70: an edge clears `BUSY` only as the falling edge of the last bit. -/
theorem lastBit_of_engineEdge_idle (hbusy : s.busy = true) (hclear : (engineEdge s).busy = false) :
    s.sclk = true ∧ s.bitCnt = 7 ∧ s.cfg.frameBytes ≤ s.byteIdx.toNat + 1 := by
  have hkept : (engineEdge s).busy ≠ s.busy := by rw [hbusy, hclear]; decide
  rcases engineEdge_cases s with ⟨-, he⟩ | ⟨-, -, he⟩ | ⟨-, hsclk, he⟩
  · exact absurd (congrArg State.busy he) hkept
  · exact absurd (congrArg State.busy he) hkept
  · rcases fall_cases s with ⟨-, hf⟩ | ⟨-, -, hf⟩ | ⟨hbit, hlast, -⟩
    · exact absurd (congrArg State.busy (he.trans hf)) hkept
    · exact absurd (congrArg State.busy (he.trans hf)) hkept
    · exact ⟨hsclk, hbit, hlast⟩

/-- R70, R71: a record clears `BUSY` only as the last of the frame. -/
theorem lastRecord_of_engineRun_idle {r : Nat} (hat : atRecord s r) (hclear : (engineRun 64 s).busy = false) :
    r = s.cfg.n.val + 2 := by
  have hlt := atRecord_lt hat
  by_contra hne
  have hmore : r < s.cfg.n.val + 2 := by omega
  rw [engineRun_of_atRecord hat, afterRecord, if_pos hmore] at hclear
  obtain ⟨-, hbusy, -⟩ := hat
  exact absurd hbusy (Bool.eq_false_iff.mp hclear)

theorem busy_of_command {w : Word} {rest : List Event} (hs : s.agenda = .command w :: rest) (hstep : step s = .next t)
    (hbusy : s.busy = true) : t.busy = true := by
  obtain ⟨t', hstep', hkeeps⟩ := step_command_keeps hs
  obtain ⟨_, _, _, rfl⟩ := hkeeps.inFrame hbusy
  obtain rfl := Host.Outcome.next.inj (hstep'.symm.trans hstep)
  exact hbusy

/-- Settles O28: `BUSY` is set by `START` alone; of the steps of a busy block, a command keeps `BUSY`, an edge clears it
at the last bit, and a record at the last record. -/
theorem busyChanges : Obligations.BusyChanges := by
  unfold Obligations.BusyChanges
  refine fun s t hinv hstep => ⟨start_of_busy_set hstep, fun hbusy hclear => ?_⟩
  have hpop : Inv (popEvent s) := inv_popEvent hinv
  have hbyte := (hinv.shift hbusy).1
  rcases step_cases hstep with ⟨hs, ht⟩ | ⟨_, hs, ht⟩ | ⟨_, hs, -⟩ | ⟨w, _, _, hs, -⟩ | ⟨w, _, _, hs, -⟩ |
    ⟨w, _, i, hs, hdec, hdue, ht⟩
  · obtain ⟨hsclk, hbit, hlast⟩ := lastBit_of_engineEdge_idle hbusy (ht ▸ hclear)
    exact .inr (.inl ⟨.inl (by rw [hs, List.head?_nil]), hsclk, hbit, by omega⟩)
  · obtain ⟨hsclk, hbit, hlast⟩ := lastBit_of_engineEdge_idle (s := popEvent s) hbusy (ht ▸ hclear)
    rw [popEvent_byteIdx, popEvent_cfg] at hlast
    exact .inr (.inl ⟨.inr (by rw [hs, List.head?_cons]), hsclk, hbit, by omega⟩)
  · exact .inl (by rw [hs, List.head?_cons])
  · exact absurd (busy_of_command hs hstep hbusy) (Bool.eq_false_iff.mp hclear)
  · exact absurd (busy_of_command hs hstep hbusy) (Bool.eq_false_iff.mp hclear)
  · obtain ⟨r, hat, hword⟩ := atRecord_of_dueRecord hpop hdue
    obtain rfl : r = s.cfg.n.val + 2 := lastRecord_of_engineRun_idle (s := popEvent s) hat (by rw [← ht, hclear])
    obtain ⟨-, hencode⟩ := encode_of_decodeRecord hdec
    have hzero : recordWord (popEvent s) (s.cfg.n.val + 2) = 0 := recordWord_eq_zero (.inr (Nat.le_succ _))
    have hw : w = 0 := hencode.symm.trans (hword.trans hzero)
    obtain ⟨-, -, hsclk, hbit, hidx⟩ := hat
    exact .inr (.inr ⟨by rw [hs, List.head?_cons, hw], hinv, hbusy, hsclk, hbit, hidx⟩)

/-! ### Samples (R12, R67) -/

theorem step_of_edge_turn (h : s.agenda.head? = none ∨ s.agenda.head? = some .edge) :
    step s = .next (engineEdge (popEvent s)) := by
  cases hs : s.agenda with
  | nil => rw [step_of_empty hs, popEvent_of_empty hs]
  | cons e rest =>
    rw [hs, List.head?_cons] at h
    obtain rfl : e = .edge := by simpa using h
    exact step_edge hs

/-- R69, R70: an edge samples `MOSI` exactly if it raises `SCLK`. -/
theorem engineEdge_sample_cases (s : State) :
    (s.sclk = false ∧ engineEdge s = { s with sclk := true, trace := s.trace ++ [s.mosi] }) ∨
    (¬ (s.sclk = false ∧ (engineEdge s).sclk = true) ∧ (engineEdge s).trace = s.trace) := by
  rcases engineEdge_cases s with ⟨-, he⟩ | ⟨-, hlow, he⟩ | ⟨-, hhigh, he⟩
  · rw [he]
    exact .inr ⟨fun ⟨hlow, hhigh⟩ => Bool.false_ne_true (hlow.symm.trans hhigh), rfl⟩
  · exact .inl ⟨hlow, he.trans (rise_spec s)⟩
  · refine .inr ⟨fun ⟨hlow, _⟩ => Bool.false_ne_true (hlow.symm.trans hhigh), ?_⟩
    rw [he]
    rcases fall_cases s with ⟨-, hf⟩ | ⟨-, -, hf⟩ | ⟨-, -, hf⟩ <;> rw [hf] <;> rfl

/-- No command moves the clock line or takes a sample. -/
theorem command_quiet {w : Word} (h : (∃ c, t = raiseErr c s) ∨
    ∃ i d u, encode i = w ∧ t = respond .ok d u ∧ Accepted s i u) :
    t.sclk = s.sclk ∧ t.trace = s.trace ∧ wire t = wire s := by
  rcases h with ⟨_, rfl⟩ | ⟨i, d, u, -, rfl, hacc⟩
  · exact ⟨rfl, rfl, rfl⟩
  · obtain ⟨-, hsclk, htrace, hearlier, -⟩ := hacc.keeps
    exact ⟨hsclk, htrace, by rw [wire, respond_earlier, respond_trace, hearlier, htrace, wire]⟩

/-- U2: reset takes nothing back of what the strip has seen. -/
theorem wire_resetEvent (s : State) : wire (resetEvent s) = wire s := List.append_nil _

/-- Settles O30: the three agents in turn. -/
theorem traceIsMosiAtRises : Obligations.TraceIsMosiAtRises := by
  unfold Obligations.TraceIsMosiAtRises
  refine fun s t hstep => ⟨fun hedge => ?_, fun w hcommand => ?_, fun hreset => ?_⟩
  · obtain rfl : engineEdge (popEvent s) = t := Host.Outcome.next.inj ((step_of_edge_turn hedge).symm.trans hstep)
    rcases engineEdge_sample_cases (popEvent s) with ⟨hlow, he⟩ | ⟨hnot, htrace⟩
    · rw [he]
      exact ⟨fun _ => ⟨rfl, rfl⟩, fun hnot => absurd ⟨hlow, rfl⟩ hnot⟩
    · exact ⟨fun hrise => absurd hrise hnot, fun _ => htrace⟩
  · rcases step_agent_cases hstep with ⟨hturn, -⟩ | ⟨hreset, -⟩ | ⟨_, -, -, houtcome⟩
    · simp [EngineTurn, hcommand] at hturn
    · simp [hcommand] at hreset
    · obtain ⟨hsclk, htrace, -⟩ := command_quiet houtcome
      exact ⟨htrace, hsclk⟩
  · rcases step_agent_cases hstep with ⟨hturn, -⟩ | ⟨-, rfl⟩ | ⟨_, hcommand, -⟩
    · simp [EngineTurn, hreset] at hturn
    · exact ⟨rfl, wire_resetEvent _⟩
    · simp [hreset] at hcommand

/-- Settles O31: I1 of R22, and what each agent does to an idle block. -/
theorem idleEngine : Obligations.IdleEngine := by
  unfold Obligations.IdleEngine
  intro s hinv hidle
  obtain ⟨hsclk, hmosi, hshreg, hbit, -⟩ := hinv.idle hidle
  refine ⟨hsclk, hmosi, hshreg, hbit, fun rest hs => ?_, fun hs => ?_, fun t hstep => ?_⟩
  · rw [step_edge hs, engineEdge_of_idle (s := popEvent s) hidle, popEvent_of_agenda hs]
  · rw [step_of_empty hs, engineEdge_of_idle hidle]
  · rcases step_agent_cases hstep with ⟨-, m, rfl⟩ | ⟨-, rfl⟩ | ⟨_, -, -, houtcome⟩
    · rw [engineRun_of_idle (s := popEvent s) m hidle]
      exact ⟨hsclk, rfl⟩
    · exact ⟨rfl, wire_resetEvent _⟩
    · obtain ⟨hsclk', -, hwire⟩ := command_quiet houtcome
      exact ⟨hsclk'.trans hsclk, hwire⟩

/-! ### The marks (U1, U11; log entry 11) -/

theorem getD_set_true {marks : List Bool} {i : Nat} (hi : i < marks.length) (j : Nat) :
    (marks.set i true).getD j false = true ↔ j = i ∨ marks.getD j false = true := by
  rw [List.getD_eq_getElem?_getD, List.getD_eq_getElem?_getD]
  by_cases hj : j = i
  · subst hj
    simp [List.getElem?_set_self hi]
  · simp [List.getElem?_set_ne (Ne.symm hj), hj]

theorem allWritten_eq_false_iff (s : State) :
    allWritten s = false ↔ ∃ i, i < s.written.length ∧ s.written.getD i false = false := by
  rw [allWritten, List.all_eq_false]
  constructor
  · rintro ⟨x, hx, hfalse⟩
    obtain ⟨i, hi, rfl⟩ := List.mem_iff_getElem.mp hx
    exact ⟨i, hi, by simpa [hi] using hfalse⟩
  · rintro ⟨i, hi, hfalse⟩
    exact ⟨s.written[i], List.getElem_mem hi, by simpa [hi] using hfalse⟩

/-- Settles O19: a write sets one mark, a `START` looks for a clear one, and reset leaves `N` clear ones. -/
theorem writtenMarks : Obligations.WrittenMarks := by
  unfold Obligations.WrittenMarks
  refine ⟨fun s t hwf hidle => ⟨fun idx hue hidx hexec => ?_, fun dim hexec => ?_⟩, fun s rest hs => ?_⟩
  · obtain rfl := Host.Outcome.next.inj ((exec_sethue_accepted hidle hidx hue).symm.trans hexec)
    exact ⟨rfl, getD_set_true (hwf.2 ▸ hidx)⟩
  · obtain rfl := Host.Outcome.next.inj ((exec_start_accepted hidle dim).symm.trans hexec)
    rw [← hwf.2, ← allWritten_eq_false_iff, beginFrame_spec, respond_blindStart, Bool.or_eq_true, Bool.not_eq_true']
    exact ⟨rfl, Iff.rfl⟩
  · refine ⟨resetEvent (popEvent s), step_of_reset hs, List.length_replicate, fun j => ?_, rfl⟩
    rw [resetEvent_written, List.getD_eq_getElem?_getD, List.getElem?_replicate]
    split <;> rfl

end Sys2Proof.Machine
end

section
/-! The position in the frame (spec/10_state.md R16) and the engine on its own from a `START` to the end of the frame
(spec/44_serializer.md R71). -/

namespace Sys2Proof.Machine

variable {s t u : State} {dim : Byte} {m : Nat}

/-! ### The position -/

theorem pos_lt_frameBits (hinv : Inv s) (hbusy : s.busy = true) : pos s < s.cfg.frameBits := by
  have hbyte := (hinv.shift hbusy).1
  have hbit := s.bitCnt.isLt
  rw [pos, frameBits_eq]
  omega

theorem pos_of_idle (hinv : Inv s) (hidle : s.busy = false) : pos s = 0 := by
  obtain ⟨-, -, -, hbit, hbyte⟩ := hinv.idle hidle
  rw [pos, hbit, hbyte]
  rfl

/-- R70: at the last position the falling edge is the third case. -/
theorem fall_of_last_pos (hlast : pos s + 1 = s.cfg.frameBits) : fall s = fallLast s := by
  have hbit := s.bitCnt.isLt
  rw [pos, frameBits_eq] at hlast
  rcases fall_cases s with ⟨hmore, -⟩ | ⟨hseven, hmore, -⟩ | ⟨-, -, hf⟩
  · omega
  · omega
  · exact hf

/-- Settles O29: I1 and I2 of R22 bound the position; the edges move it as the two counters count. -/
theorem positionAdvances : Obligations.PositionAdvances := by
  unfold Obligations.PositionAdvances
  refine fun s hinv => ⟨?_, pos_of_idle hinv, fun hbusy hlow => ?_, fun hbusy hhigh hmore => ?_,
    fun hbusy hhigh hlast => ?_⟩
  · cases hbusy : s.busy with
    | false =>
      rw [pos_of_idle hinv hbusy, Config.frameBits]
      omega
    | true => exact pos_lt_frameBits hinv hbusy
  · rw [engineEdge_of_low hbusy hlow, rise_spec]
    rfl
  · obtain ⟨hbusy', -, hpos⟩ := fall_pos hbusy hmore
    rw [engineEdge_of_high hbusy hhigh]
    exact ⟨hbusy', hpos⟩
  · rw [engineEdge_of_high hbusy hhigh, fall_of_last_pos hlast]
    exact ⟨rfl, rfl⟩

/-! ### The frame, edge by edge -/

theorem engineRun_succ (m : Nat) (s : State) : engineRun (m + 1) s = engineEdge (engineRun m s) := engineRun_add m 1 s

/-- R71: as long as the frame lasts every edge sends on. -/
theorem FrameSent.engineRun (h : FrameSent s dim 0 u) (hm : m ≤ 2 * s.cfg.frameBits) :
    FrameSent s dim m (engineRun m u) := by
  induction m with
  | zero => exact h
  | succ m ih =>
    rw [engineRun_succ]
    exact (ih (Nat.le_of_succ_le hm)).edge hm

/-- R71: the last edge of the frame leaves the block idle. -/
theorem FrameSent.idle_at_end (h : FrameSent s dim 0 u) : (Machine.engineRun (2 * s.cfg.frameBits) u).busy = false := by
  have hbits : 0 < s.cfg.frameBits := by unfold Config.frameBits; omega
  obtain ⟨k, hk⟩ : ∃ k, 2 * s.cfg.frameBits = k + 1 := ⟨2 * s.cfg.frameBits - 1, by omega⟩
  have hfl := (h.engineRun (m := k) (by omega)).inFlight (by omega)
  set v := Machine.engineRun k u
  have hedges : 2 * pos v + v.sclk.toNat = k := hfl.edges
  have hodd := v.sclk.toNat_le
  have hhigh : v.sclk = true := Bool.toNat_eq_one.mp (by omega)
  have hlast : pos v + 1 = v.cfg.frameBits := by rw [hfl.cfg]; omega
  rw [hk, engineRun_succ, engineEdge_of_high hfl.busy hhigh, fall_of_last_pos hlast]
  rfl

theorem take_frameBits (c : Config) (hues : List HueWord) (d : Byte) :
    (bytesBits (frameOf c hues d)).take c.frameBits = bytesBits (frameOf c hues d) :=
  List.take_of_length_le (by rw [bytesBits_length, frameOf_length, frameBits_eq])

/-- Settles O34: the frame is sent edge by edge; at its end I1 of R22 gives the idle serializer, and the edges touch
nothing else. -/
theorem frameOnTheWire : Obligations.FrameOnTheWire := by
  unfold Obligations.FrameOnTheWire
  intro s t dim hinv hidle hexec
  obtain rfl := Host.Outcome.next.inj ((exec_start_accepted hidle dim).symm.trans hexec)
  have hstart := frameSent_start (dim := dim) hinv hidle
  refine ⟨fun m hm => ?_, ?_⟩
  · have hsent := hstart.engineRun hm.le
    exact ⟨(hsent.inFlight hm).busy, hsent.trace⟩
  · have hend := hstart.engineRun le_rfl
    have htrace := hend.trace
    rw [show (2 * s.cfg.frameBits + 1) / 2 = s.cfg.frameBits by omega, take_frameBits] at htrace
    have hbusy := hstart.idle_at_end
    obtain ⟨hsclk, hmosi, hshreg, hbit, hbyte⟩ := hend.inv.idle hbusy
    have hlow : s.sclk = false := (hinv.idle hidle).1
    refine (engineRun_keeps _ _).trans ?_
    rw [hbusy, hbyte, hbit, hshreg, hsclk, hmosi, htrace, beginFrame_spec, respond, hlow]

/-- Settles O36: place `p` among the bits is place `p mod 8` of byte `p div 8`. -/
theorem sampleNumbering : Obligations.SampleNumbering := by
  unfold Obligations.SampleNumbering
  intro c hues d p hp
  have hbyte : p / 8 < c.frameBytes := by rw [frameBits_eq] at hp; omega
  have hbit := bytesBits_get (frameOf c hues d) (p / 8) (Nat.mod_lt p (by decide : 0 < 8))
  rw [Nat.div_add_mod] at hbit
  rw [hbit, frameOf, List.getElem?_map, List.getElem?_range hbyte]
  rfl

end Sys2Proof.Machine
end

section
/-! What no step looks at (spec/10_state.md R17, spec/44_serializer.md R72): a change `f` of the state that leaves alone
what the agents read shows in the next state only where a view `g` of the state does not look. -/

namespace Sys2Proof.Machine

variable {s t : State}

/-- A view of the next state; the stops have nothing to view. -/
def mapNext (g : State → State) : Host.Outcome State Fault Refusal → Host.Outcome State Fault Refusal
  | .next t => .next (g t)
  | .fault r => .fault r
  | .refused r => .refused r

theorem mapNext_eq_next_iff {g : State → State} {o : Host.Outcome State Fault Refusal} :
    mapNext g o = .next t ↔ ∃ u, o = .next u ∧ g u = t := by
  cases o <;> simp [mapNext]

theorem mapNext_eq_fault_iff {g : State → State} {o : Host.Outcome State Fault Refusal} {r : Fault} :
    mapNext g o = .fault r ↔ o = .fault r := by
  cases o <;> simp [mapNext]

theorem mapNext_eq_refused_iff {g : State → State} {o : Host.Outcome State Fault Refusal} {r : Refusal} :
    mapNext g o = .refused r ↔ o = .refused r := by
  cases o <;> simp [mapNext]

/-- The change `f` reaches nothing that the agents read, and the view `g` of what they write does not show it. -/
structure Unseen (f g : State → State) : Prop where
  agenda (s : State) : (f s).agenda = s.agenda
  popEvent (s : State) : popEvent (f s) = f (popEvent s)
  engineEdge (s : State) : engineEdge (f s) = f (engineEdge s)
  dueRecord (s : State) : dueRecord (f s) = dueRecord s
  view (s : State) : g (f s) = g s
  reset (s : State) : g (resetEvent (f s)) = g (resetEvent s)
  raise (c : Cause) (s : State) : g (raiseErr c (f s)) = g (raiseErr c s)
  command {i : Instr} (hi : i.space = .command) (s : State) : mapNext g (exec i (f s)) = mapNext g (exec i s)

namespace Unseen

variable {f g : State → State}

theorem engineRun (h : Unseen f g) (m : Nat) (s : State) : engineRun m (f s) = f (engineRun m s) := by
  induction m generalizing s with
  | zero => rfl
  | succ m ih => rw [Machine.engineRun, h.engineEdge, ih, Machine.engineRun]

theorem sendRecord (h : Unseen f g) (w : Word) (s : State) :
    mapNext g (sendRecord w (f s)) = mapNext g (sendRecord w s) := by
  rw [Machine.sendRecord, Machine.sendRecord, h.dueRecord, h.engineRun]
  split
  · exact congrArg Host.Outcome.next (h.view _)
  · rfl

/-- Whatever the next event is, the view of the outcome is the same. -/
theorem step (h : Unseen f g) (s : State) : mapNext g (step (f s)) = mapNext g (step s) := by
  have hagenda := h.agenda s
  cases hs : s.agenda with
  | nil =>
    rw [hs] at hagenda
    rw [step_of_empty hagenda, step_of_empty hs, h.engineEdge]
    exact congrArg Host.Outcome.next (h.view _)
  | cons event rest =>
    rw [hs] at hagenda
    cases event with
    | edge =>
      rw [step_edge hagenda, step_edge hs, h.popEvent, h.engineEdge]
      exact congrArg Host.Outcome.next (h.view _)
    | reset =>
      rw [step_of_reset hagenda, step_of_reset hs, h.popEvent]
      exact congrArg Host.Outcome.next (h.reset _)
    | command w =>
      cases hdec : decodeCommand w with
      | ok i =>
        rw [step_of_decoded_command hagenda hdec, step_of_decoded_command hs hdec, h.popEvent]
        exact h.command (decodeCommand_space hdec) _
      | error e =>
        rw [step_of_rejected_command hagenda hdec, step_of_rejected_command hs hdec, h.popEvent]
        exact congrArg Host.Outcome.next (h.raise _ _)
    | record w =>
      cases hdec : decodeRecord w with
      | ok i =>
        rw [step_of_record hagenda hdec, step_of_record hs hdec, h.popEvent]
        exact h.sendRecord w _
      | error e => rw [step_of_no_record hagenda hdec, step_of_no_record hs hdec]

end Unseen

/-! ### `ERR` and `CAUSE` (R17) -/

/-- The same state with another error record. -/
def withErr (e : Bool) (c : Cause) (s : State) : State := { s with err := e, cause := c }

theorem engineEdge_withErr (e : Bool) (c : Cause) (s : State) :
    engineEdge (withErr e c s) = withErr e c (engineEdge s) := by
  simp only [engineEdge, fall, apply_ite (withErr e c)]
  rfl

/-- R18: bit 0 of `STATUS` is `BUSY`, the only bit that `forgetErr` keeps. -/
theorem statusView_and_one (s : State) : statusView s &&& 1 = (BitVec.ofBool s.busy).setWidth 32 := by
  rw [← statusView_bit_busy s]
  exact BitVec.and_one_eq_setWidth_ofBool_getLsbD

theorem forgetErr_respond (r : Resp) (d : Word) (s : State) :
    forgetErr (respond r d s) = respond r (d &&& 1) (forgetErr s) := by
  simp only [forgetErr, respond, List.map_append]
  rfl

theorem unseen_withErr (e : Bool) (c : Cause) : Unseen (withErr e c) forgetErr where
  agenda _ := rfl
  popEvent _ := rfl
  engineEdge := engineEdge_withErr e c
  dueRecord _ := rfl
  view _ := rfl
  reset _ := rfl
  raise _ _ := rfl
  command {i} hi s := by
    cases i with
    | nop => rfl
    | sethue idx hue =>
      simp only [exec, execSethue, apply_ite (mapNext forgetErr)]
      rfl
    | start dim =>
      simp only [exec, execStart, apply_ite (mapNext forgetErr)]
      rfl
    | status =>
      refine congrArg Host.Outcome.next ?_
      rw [forgetErr_respond, forgetErr_respond, statusView_and_one, statusView_and_one]
      rfl
    | clrerr => rfl
    | zerorec => cases hi
    | pixrec => cases hi

/-- Settles O18: no agent reads `ERR` or `CAUSE` but for `STATUS`, and `forgetErr` looks at none of that. -/
theorem errBlocksNothing : Obligations.ErrBlocksNothing := by
  unfold Obligations.ErrBlocksNothing
  intro s t e c hstep
  have hview := (unseen_withErr e c).step s
  rw [hstep] at hview
  exact mapNext_eq_next_iff.mp hview

/-! ### `SCLK_HALF` (R72) -/

theorem engineEdge_withSclkHalf (x : PNat) (s : State) :
    engineEdge (withSclkHalf x s) = withSclkHalf x (engineEdge s) := by
  simp only [engineEdge, fall, apply_ite (withSclkHalf x)]
  rfl

theorem unseen_withSclkHalf (x : PNat) : Unseen (withSclkHalf x) (withSclkHalf x) where
  agenda _ := rfl
  popEvent _ := rfl
  engineEdge := engineEdge_withSclkHalf x
  dueRecord _ := rfl
  view _ := rfl
  reset _ := rfl
  raise _ _ := rfl
  command {i} hi s := by
    cases i with
    | nop => rfl
    | sethue idx hue =>
      simp only [exec, execSethue, apply_ite (mapNext (withSclkHalf x))]
      rfl
    | start dim =>
      simp only [exec, execStart, apply_ite (mapNext (withSclkHalf x))]
      rfl
    | status => rfl
    | clrerr => rfl
    | zerorec => cases hi
    | pixrec => cases hi

theorem withSclkHalf_of_eq {x : PNat} (h : s.cfg.sclkHalf = x) : withSclkHalf x s = s := by
  subst h
  rfl

/-- Settles O26: no agent reads `SCLK_HALF`, and none changes it, so the next state has the other value. -/
theorem sclkHalfUnused : Obligations.SclkHalfUnused := by
  unfold Obligations.SclkHalfUnused
  intro s x
  have hview := (unseen_withSclkHalf x).step s
  refine ⟨fun t hstep => ?_, fun r hstep => ?_, fun r hstep => ?_⟩ <;> rw [hstep] at hview
  · obtain ⟨t', hstep', ht'⟩ := mapNext_eq_next_iff.mp hview
    have hx : t'.cfg.sclkHalf = x := congrArg Config.sclkHalf (configurationConstant _ _ hstep')
    rw [hstep', ← ht', withSclkHalf_of_eq hx]
  · exact mapNext_eq_fault_iff.mp hview
  · exact mapNext_eq_refused_iff.mp hview

end Sys2Proof.Machine
end

section
/-! The range and the corner cases of the colour conversion (spec/41_hsv_to_rgb.md R53, R57), from the ramp of R52 and
the table of the sectors. -/

namespace Sys2Proof.Machine

/-! ### The range (R51, R53(e)) -/

theorem ramp_antitone (sa va : Byte) {x y : Nat} (hxy : x ≤ y) : ramp sa va y ≤ ramp sa va x :=
  Nat.mul_le_mul_left _ (Nat.sub_le_sub_left (Nat.mul_le_mul_left _ hxy) _)

theorem ramp_le_den (sa va : Byte) (x : Nat) : ramp sa va x ≤ den :=
  calc ramp sa va x ≤ 255 * kv := Nat.mul_le_mul (Nat.le_of_lt_succ va.isLt) (Nat.sub_le _ _)
    _ = den := rfl

/-- In every sector one channel has the largest of the four numbers and one the smallest. -/
theorem max_sectorColour (k : Nat) {v p q t : Nat} (hp : p ≤ v) (hq : q ≤ v) (ht : t ≤ v) :
    let x := sectorColour k v p q t
    max x.r (max x.g x.b) = v := by
  unfold sectorColour
  split <;> dsimp only <;> omega

theorem min_sectorColour (k : Nat) {v p q t : Nat} (hp : p ≤ v) (hq : p ≤ q) (ht : p ≤ t) :
    let x := sectorColour k v p q t
    min x.r (min x.g x.b) = p := by
  unfold sectorColour
  split <;> dsimp only <;> omega

/-- Settles O45: the four numerators are a falling ramp at places from 0 to `SECT`. -/
theorem hsvRange : Obligations.HsvRange := by
  unfold Obligations.HsvRange
  intro h sa va
  have hrem := remOf_le_sect h
  have hle {x : Nat} : ramp sa va x ≤ ramp sa va 0 := ramp_antitone sa va (Nat.zero_le _)
  have hge {x : Nat} (hx : x ≤ sect) : ramp sa va sect ≤ ramp sa va x := ramp_antitone sa va hx
  have hmax := max_sectorColour (sectorOf h) (hle (x := sect)) (hle (x := remOf h)) (hle (x := sect - remOf h))
  have hmin := min_sectorColour (sectorOf h) (hle (x := sect)) (hge hrem) (hge (Nat.sub_le sect (remOf h)))
  rw [← hsv2rgb_eq_sectorColour] at hmax hmin
  have htop := ramp_le_den sa va 0
  rw [ramp_zero] at hmax htop
  rw [ramp_sect] at hmin
  refine ⟨hmax, hmin, ?_, ?_, ?_⟩ <;> omega

/-! ### Grey, black and the boundaries of the sectors (R53(a) to (c)) -/

theorem ramp_of_val_eq_zero (sa : Byte) (x : Nat) : ramp sa 0 x = 0 := by
  simp [ramp]

theorem toNat_boundary {k : Nat} (hk : k < 6) : (BitVec.ofNat 16 (7680 * k)).toNat = 7680 * k := by
  rw [BitVec.toNat_ofNat, Nat.mod_eq_of_lt (by omega)]

theorem sectorOf_boundary {k : Nat} (hk : k < 6) : sectorOf (BitVec.ofNat 16 (7680 * k)) = k := by
  rw [sectorOf, toNat_boundary hk, sect]
  omega

theorem remOf_boundary {k : Nat} (hk : k < 6) : remOf (BitVec.ofNat 16 (7680 * k)) = 0 := by
  rw [remOf, toNat_boundary hk, sect]
  omega

/-- At the foot of a sector its falling channel is still full and its rising one still at the bottom. -/
theorem sectorColour_boundary {k : Nat} (hk : k < 6) (v p : Nat) :
    sectorColour k v p v p =
      if k = 0 then ⟨v, p, p⟩ else if k = 1 then ⟨v, v, p⟩ else if k = 2 then ⟨p, v, p⟩
      else if k = 3 then ⟨p, v, v⟩ else if k = 4 then ⟨p, p, v⟩ else ⟨v, p, v⟩ := by
  interval_cases k <;> rfl

/-- Settles O46: without saturation the ramp is flat, without value it is 0, and at a boundary it is read at its ends. -/
theorem hsvCornerCases : Obligations.HsvCornerCases := by
  unfold Obligations.HsvCornerCases
  refine ⟨fun h va => ?_, fun h sa => ?_, fun k sa va hk => ?_⟩
  · rw [hsv2rgb_eq_sectorColour]
    simp only [ramp_of_sat_eq_zero (sa := 0) rfl, sectorColour_same, kv]
  · rw [hsv2rgb_eq_sectorColour]
    simp only [ramp_of_val_eq_zero, sectorColour_same]
  · rw [hsv2rgb_eq_sectorColour, sectorOf_boundary hk, remOf_boundary hk, Nat.sub_zero, ramp_zero, ramp_sect]
    exact sectorColour_boundary hk _ _

/-! ### Full saturation and value (R57) -/

/-- R57: the ramp at full saturation and value, scaled. -/
theorem scale8_ramp_full (x : Nat) (d : Byte) :
    scale8 (ramp 255 255 x) d = BitVec.ofNat 8 ((7680 - x) * d.toNat / 7680) := by
  have hramp : ramp 255 255 x = 65025 * (7680 - x) := by
    rw [ramp, kv, show (255 : Byte).toNat = 255 from rfl]
    omega
  rw [scale8, hramp, show den = 65025 * 7680 from rfl, Nat.mul_assoc, Nat.mul_div_mul_left _ _ (by decide)]

/-- Settles O49: the raw colour is the table of the sectors read over the scaled ramp. -/
theorem fullSaturationRaw : Obligations.FullSaturationRaw := by
  unfold Obligations.FullSaturationRaw
  intro c h d hsat hval rem up down
  have hraw : rawColour c h d = (hsv2rgb h 255 255).map (scale8 · d) := by
    rw [rawColour, hsat, hval]
    rfl
  have hrem := remOf_le_sect h
  have hfull : scale8 (ramp 255 255 0) d = d := by
    rw [scale8_ramp_full, Nat.sub_zero, Nat.mul_div_cancel_left _ (by decide), BitVec.ofNat_toNat,
      BitVec.setWidth_eq]
  have hnone : scale8 (ramp 255 255 sect) d = 0 := by
    rw [scale8_ramp_full, sect, Nat.sub_self, Nat.zero_mul, Nat.zero_div]
    rfl
  have hdown : scale8 (ramp 255 255 (remOf h)) d = down := scale8_ramp_full _ d
  have hup : scale8 (ramp 255 255 (sect - remOf h)) d = up := by
    rw [scale8_ramp_full, ← sect, Nat.sub_sub_self hrem]
    rfl
  rw [hraw, hsv2rgb_eq_sectorColour, map_sectorColour, hfull, hnone, hdown, hup]
  rfl

end Sys2Proof.Machine
end

section
/-! The gamma tables of rational exponents (spec/40_gamma_lut.md R44, R45; log entry 12): a comparison of natural numbers
says whether the curve reaches the middle between two entries, and the entry is how many middles it reaches. -/

namespace Sys2Proof

/-- The comparison in `Machine.gammaEntry`: the level reaches the middle above entry `j`. -/
abbrev ReachesMiddle (p q i j : Nat) : Prop := (2 * j + 1) ^ q * 255 ^ p ≤ i ^ p * 510 ^ q

/-- R44 with the exponent `p/q` raised away: the curve to the power `q`. -/
theorem gammaCurve_pow {p q : Nat} (hq : 0 < q) (i : Nat) :
    (gammaCurve ((p : ℝ) / q) i / 255) ^ q = ((i : ℝ) / 255) ^ p := by
  have hq' : (q : ℝ) ≠ 0 := Nat.cast_ne_zero.mpr hq.ne'
  have hlevel : (0 : ℝ) ≤ (i : ℝ) / 255 := by positivity
  rw [gammaCurve, mul_div_cancel_left₀ _ (by norm_num), ← Real.rpow_natCast, ← Real.rpow_mul hlevel, div_mul_cancel₀ _ hq',
    Real.rpow_natCast]

theorem reachesMiddle_iff {p q : Nat} (hq : 0 < q) (i j : Nat) :
    ReachesMiddle p q i j ↔ (j : ℝ) + 1 / 2 ≤ gammaCurve ((p : ℝ) / q) i := by
  have hcurve : 0 ≤ gammaCurve ((p : ℝ) / q) i / 255 := div_nonneg (gammaCurve_nonneg _ _) (by norm_num)
  have hmiddle : (0 : ℝ) ≤ (2 * j + 1) / 510 := by positivity
  calc ReachesMiddle p q i j
      ↔ ((2 * j + 1 : ℝ)) ^ q * 255 ^ p ≤ (i : ℝ) ^ p * 510 ^ q := by unfold ReachesMiddle; exact_mod_cast Iff.rfl
    _ ↔ ((2 * j + 1 : ℝ) / 510) ^ q ≤ ((i : ℝ) / 255) ^ p := by
      rw [div_pow, div_pow, div_le_div_iff₀ (by positivity) (by positivity)]
    _ ↔ (2 * j + 1 : ℝ) / 510 ≤ gammaCurve ((p : ℝ) / q) i / 255 := by
      rw [← gammaCurve_pow hq, pow_le_pow_iff_left₀ hmiddle hcurve hq.ne']
    _ ↔ (j : ℝ) + 1 / 2 ≤ gammaCurve ((p : ℝ) / q) i := by
      constructor <;> intro h <;> linarith

/-- R44: the entry `y` is the one whose two middles the level lies between. -/
theorem gammaEntry_iff_middles {p q i : Nat} (hp : 0 < p) (hq : 0 < q) (hi : i ≤ 255) (y : Nat) :
    GammaEntry ((p : ℝ) / q) i y ↔ (y = 0 ∨ ReachesMiddle p q i (y - 1)) ∧ ¬ ReachesMiddle p q i y := by
  have hg : 0 < (p : ℝ) / q := by positivity
  have hbelow : (y = 0 ∨ ReachesMiddle p q i (y - 1)) ↔ (y : ℝ) ≤ gammaCurve ((p : ℝ) / q) i + 1 / 2 := by
    cases y with
    | zero =>
      have := gammaCurve_nonneg ((p : ℝ) / q) i
      exact ⟨fun _ => by push_cast; linarith, fun _ => .inl rfl⟩
    | succ k =>
      rw [or_iff_right (Nat.succ_ne_zero k), Nat.add_sub_cancel, reachesMiddle_iff hq]
      push_cast
      constructor <;> intro h <;> linarith
  rw [gammaEntry_iff_floor hg hi, eq_comm, Int.floor_eq_iff, hbelow, reachesMiddle_iff hq, not_le, Int.cast_natCast]
  refine and_congr_right fun _ => ?_
  constructor <;> intro h <;> linarith

end Sys2Proof

namespace Sys2Proof.Machine

theorem length_filter_range_lt {n k : Nat} (hk : k ≤ n) : ((List.range n).filter fun j => decide (j < k)).length = k := by
  rw [← List.Ico.zero_bot, List.Ico.filter_lt_of_ge hk, List.Ico.length, Nat.sub_zero]

/-- Log entry 12: the count of `gammaEntry` is the entry of the real-number rule. -/
theorem gammaEntry_meets_rule {p q i : Nat} (hp : 0 < p) (hq : 0 < q) (hi : i ≤ 255) :
    GammaEntry ((p : ℝ) / q) i (gammaEntry p q i).toNat := by
  have hg : 0 < (p : ℝ) / q := by positivity
  obtain ⟨y, hy, -⟩ := existsUnique_gammaEntry hg hi
  have hfloor := (gammaEntry_iff_floor hg hi y).mp hy
  have hle : y ≤ 255 := by
    have := floor_gammaCurve_le hg hi
    omega
  have hmiddle (j : Nat) : (2 * j + 1) ^ q * 255 ^ p ≤ i ^ p * 510 ^ q ↔ j < y := by
    rw [← ReachesMiddle, reachesMiddle_iff hq, ← Nat.cast_lt (α := ℤ), hfloor, ← Int.add_one_le_iff, Int.le_floor]
    push_cast
    constructor <;> intro h <;> linarith
  have hcount : (gammaEntry p q i).toNat = y := by
    simp only [gammaEntry, hmiddle, length_filter_range_lt hle, BitVec.toNat_ofNat]
    omega
  rw [hcount]
  exact hy

theorem gammaTable_meets_rule {e : Exponent} (hnum : 0 < e.num) (hden : 0 < e.den) :
    GammaTable ((e.num : ℝ) / e.den) (gammaTable e.num e.den) := by
  intro i
  have hentry := gammaEntry_meets_rule hnum hden (Nat.le_of_lt_succ i.isLt)
  simpa [gammaTable] using hentry

/-- Settles O42: each table is that of its exponent, and the exchange is the same on both sides. -/
theorem glutBuildMeetsRule : Obligations.GlutBuildMeetsRule := by
  unfold Obligations.GlutBuildMeetsRule
  intro c gR gG gB hRn hRd hGn hGd hBn hBd
  have hR := gammaTable_meets_rule hRn hRd
  have hG := gammaTable_meets_rule hGn hGd
  have hB := gammaTable_meets_rule hBn hBd
  refine ⟨⟨hR, ?_⟩, _, _, _, rfl⟩
  cases hswap : c.swapGb <;> simp only [glutBuild, hswap]
  · exact ⟨hG, hB⟩
  · exact ⟨hB, hG⟩

/-- The table of section 2.1 of the vectors lies between the middles of exponent 11/5, entry by entry. -/
theorem gamma22_middles (i : Fin 256) :
    (gamma22[i].toNat = 0 ∨ ReachesMiddle 11 5 i.val (gamma22[i].toNat - 1)) ∧
      ¬ ReachesMiddle 11 5 i.val gamma22[i].toNat := by
  revert i
  decide +kernel

/-- Settles O43: 2.2 is 11/5, and the three tables are one. -/
theorem scenarioBuilt : Obligations.ScenarioBuilt := by
  unfold Obligations.ScenarioBuilt
  have htable : GammaTable 2.2 gamma22 := by
    intro i
    rw [show (2.2 : ℝ) = (11 : Nat) / (5 : Nat) by norm_num]
    exact (gammaEntry_iff_middles (by decide) (by decide) (Nat.le_of_lt_succ i.isLt) _).mpr (gamma22_middles i)
  exact ⟨htable, htable, htable⟩

end Sys2Proof.Machine
end

section
/-! The written form of programs (spec/30_encoding.md R42, R43). -/

namespace Sys2Proof.Machine

/-- R42: operands in range are those that fit their fields. -/
theorem asmSethue_eq (idx hue : Nat) :
    asmSethue idx hue =
      if idx ≤ 4095 ∧ hue ≤ 65535 then some [.sethue (BitVec.ofNat 12 idx) (BitVec.ofNat 16 hue)] else none :=
  if_congr (by omega) rfl rfl

theorem asmStart_eq (dim : Nat) :
    asmStart dim = if dim ≤ 255 then some [.start (BitVec.ofNat 8 dim)] else none :=
  if_congr (by omega) rfl rfl

/-- R43, R49: the hue word of `m / 10^k` degrees is rounded down. -/
theorem floor_decimal_degrees (m k : Nat) : ⌊(m : ℚ) / 10 ^ k * 128⌋.toNat = m * 128 / 10 ^ k := by
  have hquotient : (m : ℚ) / 10 ^ k * 128 = ((m * 128 : Nat) : ℚ) / ((10 ^ k : Nat) : ℚ) := by
    push_cast
    rw [div_mul_eq_mul_div]
  rw [hquotient, Rat.floor_natCast_div_natCast, ← Int.natCast_ediv, Int.toNat_natCast]

/-- Settles O7: each line is expanded; the degrees are a rounding of a quotient of whole numbers. -/
theorem pseudoInstructions : Obligations.PseudoInstructions := by
  unfold Obligations.PseudoInstructions
  refine ⟨asmSethue_eq, asmStart_eq, rfl, fun _ => rfl, fun idx m k hm => ?_, fun _ _ => rfl⟩
  rw [floor_decimal_degrees]
  exact if_pos hm

end Sys2Proof.Machine
end
